-- ==== Sys2Proof/Word.lean ====
section
/-! DEFINITION. The two word types of EIE-LINK: bytes (R13) and the 32-bit counters (R14, `MS_WIDTH` and `CNT_WIDTH` of R7). -/

namespace Sys2Proof

/-- A byte, unsigned, `0..255`; bit 7 is the most significant (R13). -/
abbrev Byte := BitVec 8

/-- A millisecond counter, a time stamp or a byte counter: 32 bits, arithmetic modulo `2^32` (R14, D8, D12). -/
abbrev Word32 := BitVec 32

end Sys2Proof
end

