-- ==== Sys2Proof/Syntax.lean ====
section
/-! DEFINITION. The instructions of EIE-LINK: one constructor for each row of `spec/opcode_table.json`. A FRAME row is a
frame that the slave's completing poll hands to its command decoder (R87, R109); an OP row is an operation or an event
that the spec gives no bits (R118). -/

namespace Sys2Proof

/-- A decoded frame (R130): the LENGTH field, the COMMAND byte and the payload, with `length = 1 + len(payload)`. -/
structure Frame where
  length  : Nat
  command : Byte
  payload : List Byte
  deriving DecidableEq, Repr, Inhabited

/-- The two ways a byte sequence fails to be a frame (R130). -/
inductive FormatError where
  /-- No byte, or the byte at offset 0 is not `SYNC` (R110). -/
  | badSync
  /-- Fewer than `2 + LENGTH` bytes, or LENGTH is 0 or 255 (R111, R112). -/
  | truncated
  deriving DecidableEq, Repr, Inhabited

/-- The instructions: 14 frame rows and 26 operation rows of the opcode table. In a frame row `len` is the LENGTH byte
as it stands on the wire, checked only when the frame is validated (R140), and `payload` the bytes from offset 3 on. -/
inductive Instr where
  /-- `TEST`, COMMAND `0x7E` (R275). -/
  | test (len : Byte) (payload : List Byte)
  /-- `TEST_RESPONSE`, COMMAND `0x7F` (R276). -/
  | testResponse (len : Byte) (payload : List Byte)
  /-- `BOARD`: any other COMMAND with bit 7 clear (R274). -/
  | board (len : Byte) (command : Byte) (payload : List Byte)
  /-- `APP`: any COMMAND with bit 7 set (R273). -/
  | app (len : Byte) (command : Byte) (payload : List Byte)
  /-- `LED`, a named board command (R107). -/
  | led (len : Byte) (payload : List Byte)
  /-- `LCD_MESSAGE`, a named board command (R107). -/
  | lcdMessage (len : Byte) (payload : List Byte)
  /-- `DEBUG_LOG`, a named board command (R107). -/
  | debugLog (len : Byte) (payload : List Byte)
  /-- `BUZZER`, a named board command (R107). -/
  | buzzer (len : Byte) (payload : List Byte)
  /-- `SYNC_CHECK`, a named application message (R107, R277). -/
  | syncCheck (len : Byte) (payload : List Byte)
  /-- `RESET`, a named application message; it does not reset the link (R277, R354). -/
  | reset (len : Byte) (payload : List Byte)
  /-- `GAME_REQUEST`, a named application message (R107, R277). -/
  | gameRequest (len : Byte) (payload : List Byte)
  /-- `GAME_MOVE`, a named application message (R107, R277). -/
  | gameMove (len : Byte) (payload : List Byte)
  /-- `ACK`, a named application message, not a link acknowledgment (R277). -/
  | ack (len : Byte) (payload : List Byte)
  /-- `NACK`, a named application message, not a link acknowledgment (R277). -/
  | nack (len : Byte) (payload : List Byte)
  /-- `F.ENCODE(command, payload)` (R131). -/
  | fEncode (command : Byte) (payload : List Byte)
  /-- `F.VALIDATE(bytes)` (R140). -/
  | fValidate (bytes : List Byte)
  /-- `XFER(b)`: one byte each way on the wire (R165). -/
  | xfer (b : Byte)
  /-- `S.INIT(resource_ok)` (R180). -/
  | sInit (resourceOk : Bool)
  /-- `S.TICK` (R182). -/
  | sTick
  /-- `S.POLL` in `IDLE` (R185 to R187). -/
  | sPollIdle
  /-- `S.POLL` in `RX` (R188 to R192). -/
  | sPollRx
  /-- `S.POLL` in `TX` (R193, R194). -/
  | sPollTx
  /-- `S.POLL` in `ERROR` (R199). -/
  | sPollError
  /-- `S.BYTE(b)` in `RX` (R196). -/
  | sByteRx (b : Byte)
  /-- `S.BYTE(b)` in `TX` (R197). -/
  | sByteTx (b : Byte)
  /-- `S.BYTE(b)` in `IDLE` or `ERROR` (R198). -/
  | sByteOther (b : Byte)
  /-- `S.QUEUE(command, payload)` (R205). -/
  | sQueue (command : Byte) (payload : List Byte)
  /-- `S.CLRDIAG(mask)` (R210). -/
  | sClrdiag (mask : BitVec 5)
  /-- `M.INIT` (R230). -/
  | mInit
  /-- `M.TICK` (R231). -/
  | mTick
  /-- `M.SEND(bytes)`, the start event (R235). -/
  | mSend (bytes : List Byte)
  /-- `M.RECV(cap)`, the start event (R245). -/
  | mRecv (cap : Nat)
  /-- `M.WAIT` (R236 to R239, R246). -/
  | mWait
  /-- `M.CLOCK` of `send` (R240, R241). -/
  | mClockSend
  /-- `M.CLOCK` of `receive` (R248, R249). -/
  | mClockRecv
  /-- `M.SETTLE` (R242). -/
  | mSettle
  /-- `M.RELEASE` (R254). -/
  | mRelease
  /-- `D.DISPATCH(frame)` (R270). -/
  | dDispatch (frame : Frame)
  /-- `D.CHECK` (R280). -/
  | dCheck
  /-- `D.GET` (R281). -/
  | dGet
  deriving DecidableEq, Repr, Inhabited

end Sys2Proof
end

