-- ==== Sys2Proof/Config.lean ====
section
/-! DEFINITION. What an implementation fixes (the parameters of R7, in one record, with the constraints of R7 and R8) and the
free values: constants with no body, under no law, for what the spec leaves open (R15 `draw`, `93_implementation_defined.md`). -/

namespace Sys2Proof

/-- The parameters of the link (R7). -/
structure Config where
  /-- `SYNC`, the first byte of every frame. -/
  sync : Byte
  /-- `SYNC_INDEX`. -/
  syncIndex : Nat
  /-- `LENGTH_INDEX`. -/
  lengthIndex : Nat
  /-- `COMMAND_INDEX`. -/
  commandIndex : Nat
  /-- `PAYLOAD_INDEX`. -/
  payloadIndex : Nat
  /-- `OVERHEAD`: the bytes that LENGTH does not count. -/
  overhead : Nat
  /-- `BUF_CAP`, the capacity of every frame buffer. -/
  bufCap : Nat
  /-- `LENGTH_MIN`. -/
  lengthMin : Nat
  /-- `LENGTH_MAX`. -/
  lengthMax : Nat
  /-- `LENGTH_FIT_MAX`, the largest LENGTH whose frame fits a buffer. -/
  lengthFitMax : Nat
  /-- `PAYLOAD_MAX`, the largest payload `F.ENCODE` accepts. -/
  payloadMax : Nat
  /-- `POLL_PERIOD_MS`. -/
  pollPeriodMs : Nat
  /-- `SLAVE_RX_TIMEOUT_MS`. -/
  slaveRxTimeoutMs : Nat
  /-- `SLAVE_TX_TIMEOUT_MS`. -/
  slaveTxTimeoutMs : Nat
  /-- `MASTER_READY_TIMEOUT_MS`. -/
  masterReadyTimeoutMs : Nat
  /-- `SETTLE_DELAY`, open; no rule uses its value (R242). -/
  settleDelay : Nat
  /-- `APP_THRESHOLD`. -/
  appThreshold : Byte
  /-- `CMD_TEST`. -/
  cmdTest : Byte
  /-- `CMD_TEST_RESPONSE`. -/
  cmdTestResponse : Byte
  /-- `CMD_LED`, open. -/
  cmdLed : Byte
  /-- `CMD_LCD_MESSAGE`, open. -/
  cmdLcdMessage : Byte
  /-- `CMD_DEBUG_LOG`, open. -/
  cmdDebugLog : Byte
  /-- `CMD_BUZZER`, open. -/
  cmdBuzzer : Byte
  /-- `CMD_SYNC_CHECK`, open. -/
  cmdSyncCheck : Byte
  /-- `CMD_RESET`, open. -/
  cmdReset : Byte
  /-- `CMD_GAME_REQUEST`, open. -/
  cmdGameRequest : Byte
  /-- `CMD_GAME_MOVE`, open. -/
  cmdGameMove : Byte
  /-- `CMD_ACK`, open. -/
  cmdAck : Byte
  /-- `CMD_NACK`, open. -/
  cmdNack : Byte
  /-- `MASTER_DUMMY`, the byte the master clocks out while it receives. -/
  masterDummy : Byte
  /-- `MS_WIDTH`, the width of `Word32` as a millisecond counter. -/
  msWidth : Nat
  /-- `CNT_WIDTH`, the width of `Word32` as a byte counter. -/
  cntWidth : Nat
  /-- `MASTER_RX_CAP`, the default capacity of the master's caller buffer. -/
  masterRxCap : Nat

/-- FREE VALUE (U2, D5, log entry 12). An open numbering of the board commands `0x00..0x7D`: its first four places are the values of the
named board commands. A permutation keeps the two laws of R7 (in range, pairwise distinct) and nothing else. -/
opaque Config.boardNumbering : Equiv.Perm (Fin 126)

/-- FREE VALUE (U2, D5, log entry 12). An open numbering of the application messages `0x80..0xFF`: its first six places are the values of
the named application messages, as offsets from `0x80`. -/
opaque Config.appNumbering : Equiv.Perm (Fin 128)

/-- FREE VALUE (U4, D28, log entry 19). `SETTLE_DELAY`. -/
opaque Config.openSettleDelay : Nat

/-- FREE VALUE (U5, R15, log entry 11). The `draw` of the environment: the `n`-th byte that the slave shifts out where no rule says which. -/
opaque Config.draw : Nat → Byte

/-- FREE VALUE (R10, R12, log entry 15). The environment's choice of the next event, where State holds no choice already made: the `n`-th
such choice. Any event may be chosen; nothing relates one choice to another. -/
opaque Config.freeEvent : Nat → Instr

/-- The byte of the `k`-th named board command (R107). -/
def Config.boardCommand (k : Fin 126) : Byte := BitVec.ofNat 8 (Config.boardNumbering k).val

/-- The byte of the `k`-th named application message (R107). -/
def Config.appCommand (k : Fin 128) : Byte := BitVec.ofNat 8 (128 + (Config.appNumbering k).val)

/-- The parameters of the link that is modelled: the values of R7, the open ones left free (DESIGN CHOICE,
log entry 18). -/
@[reducible] def Config.link : Config where
  sync := 0x5A
  syncIndex := 0
  lengthIndex := 1
  commandIndex := 2
  payloadIndex := 3
  overhead := 2
  bufCap := 128
  lengthMin := 1
  lengthMax := 254
  lengthFitMax := 126
  payloadMax := 125
  pollPeriodMs := 1
  slaveRxTimeoutMs := 1000
  slaveTxTimeoutMs := 1000
  masterReadyTimeoutMs := 100
  settleDelay := Config.openSettleDelay
  appThreshold := 0x80
  cmdTest := 0x7E
  cmdTestResponse := 0x7F
  cmdLed := Config.boardCommand 0
  cmdLcdMessage := Config.boardCommand 1
  cmdDebugLog := Config.boardCommand 2
  cmdBuzzer := Config.boardCommand 3
  cmdSyncCheck := Config.appCommand 0
  cmdReset := Config.appCommand 1
  cmdGameRequest := Config.appCommand 2
  cmdGameMove := Config.appCommand 3
  cmdAck := Config.appCommand 4
  cmdNack := Config.appCommand 5
  masterDummy := 0x00
  msWidth := 32
  cntWidth := 32
  masterRxCap := 128

/-- The named board commands of a configuration, in the order of R107. -/
def Config.boardNames (c : Config) : List Byte := [c.cmdLed, c.cmdLcdMessage, c.cmdDebugLog, c.cmdBuzzer]

/-- The named application messages of a configuration, in the order of R107. -/
def Config.appNames (c : Config) : List Byte :=
  [c.cmdSyncCheck, c.cmdReset, c.cmdGameRequest, c.cmdGameMove, c.cmdAck, c.cmdNack]

/-- The constraints on the parameters: R8, and the ranges and the distinctness that R7 gives the named commands. -/
def Config.Valid (c : Config) : Prop :=
  c.cmdTest < c.appThreshold ∧ c.cmdTestResponse < c.appThreshold ∧ c.cmdTest ≠ c.cmdTestResponse ∧
  c.masterDummy ≠ c.sync ∧ 3 ≤ c.bufCap ∧ c.bufCap ≤ 256 ∧ 2 * c.pollPeriodMs < c.masterReadyTimeoutMs ∧
  (∀ b ∈ c.boardNames, b ≤ 0x7D) ∧ (∀ b ∈ c.appNames, 0x80 ≤ b) ∧ c.boardNames.Nodup ∧ c.appNames.Nodup

end Sys2Proof
end

