-- ==== Sys2Proof/Machine/State.lean ====
section
/-! DEFINITION. The state of the link as plain data (R20): the slave record, the mailbox record, the master record, and the
model's own record of its environment; the ways a step can stop; the machine after reset (R35). -/

namespace Sys2Proof.Machine

/-- The contents of one byte buffer (R33): the cells that differ from `Memory.unlisted`, at rising offsets. -/
abbrev Memory := List Host.Cell

/-- What a cell that is not listed reads as. DESIGN CHOICE, unsafe (log entry 2): the spec leaves the contents of every
buffer unspecified after initialisation (R35). -/
def Memory.unlisted : Byte := 0x00

/-- The canonical form: offsets strictly rising, no entry equal to what an unlisted cell reads as. -/
abbrev Memory.wf (m : Memory) : Prop := m.Pairwise (fun x y => x.1 < y.1) ∧ ∀ c ∈ m, c.2 ≠ Memory.unlisted

/-- The five byte-addressed buffer spaces (R33). -/
inductive Space where
  /-- The Receive Buffer, 128 bytes. -/
  | rxbuf
  /-- The pending outbound frame, 128 bytes. -/
  | txbuf
  /-- The mailbox, 126 bytes. -/
  | mbox
  /-- The bytes of the `send` in progress. -/
  | mtx
  /-- The caller's buffer of the `receive` in progress, `m.cap` bytes. -/
  | mrx
  deriving DecidableEq, Repr, Inhabited

/-- `s.state` (R21). -/
inductive LinkState where
  | idle
  | rx
  | tx
  | error
  deriving DecidableEq, Repr, Inhabited

/-- `m.phase` (R22). -/
inductive Phase where
  | idle
  | wait
  | clock
  | settle
  deriving DecidableEq, Repr, Inhabited

/-- `m.op` (R22). -/
inductive MasterOp where
  | send
  | recv
  deriving DecidableEq, Repr, Inhabited

/-- The diagnostic flags of `s.diag` (R31). -/
inductive DiagFlag where
  | rxOverflow
  | rxTimeout
  | txTimeout
  | formatError
  | txReject
  deriving DecidableEq, Repr, Inhabited

/-- The complete list of error conditions (R300), by name: they have no numeric codes. -/
inductive ErrorCondition where
  /-- `EncodeError`: the payload is too long. -/
  | encodeError
  /-- `FormatError::BadSync`. -/
  | badSync
  /-- `FormatError::Truncated`. -/
  | truncated
  /-- `LinkError::Timeout`: the master's bound on the wait for SRDY passed. -/
  | linkTimeout
  /-- `LinkError::Busy`: the peer wants the opposite direction. -/
  | linkBusy
  /-- `RxOverflow`: a byte arrived with the Receive Buffer full. -/
  | rxOverflow
  /-- The slave's bound on an `RX` session passed. -/
  | rxTimeout
  /-- The slave's bound on a `TX` session passed. -/
  | txTimeout
  /-- `Rejected`: a message is already pending. -/
  | rejected
  /-- The SPI peripheral could not be acquired. -/
  | initFailure
  deriving DecidableEq, Repr, Inhabited

/-- What an operation of the slave application returns to it (R205, R280, R281). -/
inductive AppResult where
  | queueOk
  | queueEncodeError
  | queueRejected
  | checked (command : Option Byte)
  | got (bytes : List Byte)
  deriving DecidableEq, Repr, Inhabited

/-- What a blocking operation of the master returns to its caller (R233). -/
inductive MasterResult where
  | sendOk
  | recvOk (count : Nat)
  | errTimeout
  | errBusy
  deriving DecidableEq, Repr, Inhabited

/-- What a function of the frame parser returns to its caller (R131, R140). -/
inductive ParserResult where
  | encoded (bytes : List Byte)
  | encodeError
  | frame (f : Frame)
  | formatError (e : FormatError)
  deriving DecidableEq, Repr, Inhabited

/-- The output event `board_cmd(command, payload)` to the external collaborator (R274). -/
structure BoardCmd where
  command : Byte
  payload : List Byte
  deriving DecidableEq, Repr, Inhabited

/-- The slave record `s` (R20, R21, R23, R27 to R31). -/
structure Slave where
  /-- Whether `S.INIT` has run: before it no slave event is enabled (R181). -/
  inited : Bool
  /-- `s.state`. -/
  state : LinkState
  /-- `s.srdy`, READY-TO-RECEIVE. -/
  srdy : Bool
  /-- `s.mrdy`, READY-TO-SEND. -/
  mrdy : Bool
  /-- `s.cs_ack`. -/
  csAck : Bool
  /-- `s.tx_pending`. -/
  txPending : Bool
  /-- `s.rx_buf`, the Receive Buffer. -/
  rxBuf : Memory
  /-- `s.rx_cursor`, range `0..128`. -/
  rxCursor : Fin 129
  /-- `s.rx_count`. -/
  rxCount : Word32
  /-- `s.tx_buf`. -/
  txBuf : Memory
  /-- `s.tx_len`, range `0..128`. -/
  txLen : Fin 129
  /-- `s.tx_count`. -/
  txCount : Word32
  /-- `s.t_start`. -/
  tStart : Word32
  /-- `s.now`. -/
  now : Word32
  /-- `s.diag`, bits 7:5 reserved. -/
  diag : BitVec 8
  deriving DecidableEq, Repr, Inhabited

/-- The mailbox record `mb` (R24, R30). -/
structure Mailbox where
  /-- `mb.buf`. -/
  buf : Memory
  /-- `mb.len`, range `0..126`. -/
  len : Fin 127
  /-- `mb.new`. -/
  new : Bool
  deriving DecidableEq, Repr, Inhabited

/-- The master record `m` (R20, R22, R25, R27). -/
structure Master where
  /-- Whether `M.INIT` has run: before it no master event is enabled (R230). -/
  inited : Bool
  /-- `m.phase`. -/
  phase : Phase
  /-- `m.op`. -/
  op : MasterOp
  /-- `m.cs`, chip-select. -/
  cs : Bool
  /-- `m.tx`. -/
  tx : List Byte
  /-- `m.n`. -/
  n : Nat
  /-- `m.rx`. -/
  rx : Memory
  /-- `m.cap`. -/
  cap : Nat
  /-- `m.idx`. -/
  idx : Nat
  /-- `m.expected`. -/
  expected : Nat
  /-- `m.t_start`. -/
  tStart : Word32
  /-- `m.now`. -/
  now : Word32
  deriving DecidableEq, Repr, Inhabited

/-- The MODEL's own record (log entry 4), not the spec's state: what the environment has decided and what it has been told. -/
structure Env where
  /-- The events that the environment has already decided on, the next one first. -/
  script : List Instr
  /-- How many events were taken from `Config.freeEvent`. -/
  picks : Nat
  /-- How many bytes were taken from `Config.draw`. -/
  draws : Nat
  /-- `slave_out` of the latest byte exchange (R165, R195). -/
  slaveOut : Byte
  /-- The latest result returned to the slave application. -/
  appRet : Option AppResult
  /-- The latest result returned to the master's caller. -/
  masterRet : Option MasterResult
  /-- The latest result of a parser function called by itself. -/
  parserRet : Option ParserResult
  /-- The output events emitted so far, oldest first (R274). -/
  emitted : List BoardCmd
  deriving DecidableEq, Repr, Inhabited

/-- The whole state (R20). -/
structure State where
  slave : Slave
  mailbox : Mailbox
  master : Master
  env : Env
  deriving DecidableEq, Repr, Inhabited

/-- Why the machine stops. -/
inductive Fault where
  /-- An access outside the capacity of a buffer space, where the spec defines none (R15). Raised by `M.CLOCK` of `send`
  when `m.n` exceeds the length of `m.tx`, and by `D.DISPATCH` of an application frame longer than the mailbox. Safe: no
  reachable event raises it (R292). -/
  | outOfBounds (space : Space)
  deriving DecidableEq, Repr, Inhabited

/-- Why an instruction has no meaning in a state. -/
inductive Refusal where
  /-- The instruction has no meaning in this model yet. Safe. -/
  | notModelled (mnemonic : String)
  /-- The event or operation is not enabled in this state: the spec says that it cannot occur there (R10, R181, R230,
  R232). Raised by the instruction itself; `step` never runs an event that is not enabled. Safe. -/
  | notEnabled (mnemonic : String)
  /-- The operand of `D.DISPATCH` is no value of the spec's type `Frame` (R130). Raised by `D.DISPATCH`. Safe. -/
  | illFormedFrame
  deriving DecidableEq, Repr, Inhabited

/-- The state with another slave record. -/
def State.withSlave (s : State) (x : Slave) : State := { s with slave := x }

/-- The state with another mailbox record. -/
def State.withMailbox (s : State) (x : Mailbox) : State := { s with mailbox := x }

/-- The state with another master record. -/
def State.withMaster (s : State) (x : Master) : State := { s with master := x }

/-- The state with another environment record. -/
def State.withEnv (s : State) (x : Env) : State := { s with env := x }

/-- The slave record after `S.INIT(1)` (R35). -/
def Slave.reset : Slave where
  inited := true
  state := .idle
  srdy := false
  mrdy := false
  csAck := false
  txPending := false
  rxBuf := []
  rxCursor := 0
  rxCount := 0
  txBuf := []
  txLen := 0
  txCount := 0
  tStart := 0
  now := 0
  diag := 0

/-- The mailbox record after `S.INIT(1)` (R35). -/
def Mailbox.reset : Mailbox where
  buf := []
  len := 0
  new := false

/-- The master record after `M.INIT` (R35). -/
def Master.reset : Master where
  inited := true
  phase := .idle
  op := .send
  cs := false
  tx := []
  n := 0
  rx := []
  cap := 0
  idx := 0
  expected := 0
  tStart := 0
  now := 0

/-- The environment record at the start of a run: nothing decided, nothing returned. -/
def Env.reset : Env where
  script := []
  picks := 0
  draws := 0
  slaveOut := 0
  appRet := none
  masterRet := none
  parserRet := none
  emitted := []

/-- The machine right after reset: after `S.INIT(1)` and `M.INIT` (R35, R350). The counters `s.now`, `m.now` and the buffer
contents, which the spec leaves unspecified, are 0 and unlisted (DESIGN CHOICE, unsafe, log entries 1 and 2). -/
def State.reset : State where
  slave := Slave.reset
  mailbox := Mailbox.reset
  master := Master.reset
  env := Env.reset

/-- The machine before either side is initialised (R35, R181, R230): no event of either side is enabled. The values of the
other elements are the model's (log entry 3). -/
def State.powerOn : State :=
  { State.reset with slave := { Slave.reset with inited := false }, master := { Master.reset with inited := false } }

end Sys2Proof.Machine
end

