-- ==== Sys2Proof/Machine/Operands.lean ====
section
/-! DEFINITION. Access to the byte buffers (R33, R74, R291, R292), the signal lines as the other side samples them (R16, R27,
R181, R230), and the encodings of the state registers (R21, R22). -/

namespace Sys2Proof.Machine

/-- One byte of a buffer (R15 `MemRead` of one byte). -/
def Memory.read (m : Memory) (a : Nat) : Byte :=
  match m with
  | [] => Memory.unlisted
  | (k, v) :: rest => if k = a then v else Memory.read rest a

/-- Store one byte (R15 `MemWrite` of one byte), keeping the canonical form. -/
def Memory.write (m : Memory) (a : Nat) (b : Byte) : Memory :=
  match m with
  | [] => if b = Memory.unlisted then [] else [(a, b)]
  | (k, v) :: rest =>
    if a < k then (if b = Memory.unlisted then (k, v) :: rest else (a, b) :: (k, v) :: rest)
    else if a = k then (if b = Memory.unlisted then rest else (a, b) :: rest)
    else (k, v) :: Memory.write rest a b

/-- Store consecutive bytes in ascending offset order (R71, R291). -/
def Memory.writeBlock (m : Memory) (a : Nat) (bytes : List Byte) : Memory :=
  match bytes with
  | [] => m
  | b :: rest => Memory.writeBlock (Memory.write m a b) (a + 1) rest

/-- Read `n` consecutive bytes, lowest offset first (R15). -/
def Memory.readBlock (m : Memory) (a n : Nat) : List Byte := (List.range n).map fun k => Memory.read m (a + k)

/-- The capacity of a buffer space in bytes (R33). -/
def State.capacity (s : State) (sp : Space) : Nat :=
  match sp with
  | .rxbuf => Config.link.bufCap
  | .txbuf => Config.link.bufCap
  | .mbox => 126
  | .mtx => s.master.tx.length
  | .mrx => s.master.cap

/-- One byte of a buffer space, for an observer. -/
def State.readByte (s : State) (sp : Space) (a : Nat) : Byte :=
  match sp with
  | .rxbuf => Memory.read s.slave.rxBuf a
  | .txbuf => Memory.read s.slave.txBuf a
  | .mbox => Memory.read s.mailbox.buf a
  | .mtx => s.master.tx.getD a Memory.unlisted
  | .mrx => Memory.read s.master.rx a

/-- Whether slave events are enabled: `S.INIT` has run (R181). -/
def slaveUp (s : State) : Bool := s.slave.inited

/-- Whether master events are enabled: `M.INIT` has run (R230). -/
def masterUp (s : State) : Bool := s.master.inited

/-- SRDY as the master samples it: deasserted before `S.INIT` (R181). -/
def srdyLine (s : State) : Bool := s.slave.inited && s.slave.srdy

/-- MRDY as the master samples it: deasserted before `S.INIT` (R181). -/
def mrdyLine (s : State) : Bool := s.slave.inited && s.slave.mrdy

/-- Chip-select as the slave samples it: deasserted before `M.INIT` (R230). -/
def csLine (s : State) : Bool := s.master.inited && s.master.cs

/-- The encoding of `s.state` (R21). -/
def linkStateBits (x : LinkState) : BitVec 2 :=
  match x with
  | .idle => 0
  | .rx => 1
  | .tx => 2
  | .error => 3

/-- The encoding of `m.phase` (R22). -/
def phaseBits (x : Phase) : BitVec 2 :=
  match x with
  | .idle => 0
  | .wait => 1
  | .clock => 2
  | .settle => 3

/-- The encoding of `m.op` (R22). -/
def opBits (x : MasterOp) : BitVec 1 :=
  match x with
  | .send => 0
  | .recv => 1

/-- One bit of a register view. -/
def bit (b : Bool) : BitVec 1 := BitVec.ofBool b

/-- Widen an unsigned value (R14). -/
def zext {w : Nat} (n : Nat) (v : BitVec w) : BitVec n := v.setWidth n

end Sys2Proof.Machine
end

