-- ==== Sys2Proof/Machine/Flags.lean ====
section
/-! DEFINITION. The diagnostic flags (R31) and `raise` (R15, R300): how each error condition is recorded. -/

namespace Sys2Proof.Machine

/-- The bit of `s.diag` that holds a flag (R31). -/
def diagBit (f : DiagFlag) : Nat :=
  match f with
  | .rxOverflow => 0
  | .rxTimeout => 1
  | .txTimeout => 2
  | .formatError => 3
  | .txReject => 4

/-- The word with one flag set. -/
def diagMask (f : DiagFlag) : BitVec 8 := BitVec.ofNat 8 (2 ^ diagBit f)

/-- Whether a flag is set. -/
def diagFlag (d : BitVec 8) (f : DiagFlag) : Bool := d.getLsbD (diagBit f)

/-- The flag in which an error condition is reported, for those that are reported in one (R300). -/
def errorFlag (e : ErrorCondition) : Option DiagFlag :=
  match e with
  | .encodeError => none
  | .badSync => some .formatError
  | .truncated => some .formatError
  | .linkTimeout => none
  | .linkBusy => none
  | .rxOverflow => some .rxOverflow
  | .rxTimeout => some .rxTimeout
  | .txTimeout => some .txTimeout
  | .rejected => some .txReject
  | .initFailure => none

/-- The result value by which an error of the master reaches its caller (R233, R300). -/
def errorResult (e : ErrorCondition) : Option MasterResult :=
  match e with
  | .encodeError => none
  | .badSync => none
  | .truncated => none
  | .linkTimeout => some .errTimeout
  | .linkBusy => some .errBusy
  | .rxOverflow => none
  | .rxTimeout => none
  | .txTimeout => none
  | .rejected => none
  | .initFailure => none

/-- `s.diag` with a flag set; flags are sticky (R31). -/
def setDiag (d : BitVec 8) (f : DiagFlag) : BitVec 8 := d ||| diagMask f

/-- `s.diag AND NOT mask`: the mask reaches the five flags only (R210, R31 "writes ignored"). -/
def clearDiag (d : BitVec 8) (mask : BitVec 5) : BitVec 8 := d &&& ~~~(zext 8 mask)

/-- The diagnostic word after an error condition is recorded in it (R15 `raise`, R300). -/
def recordError (d : BitVec 8) (e : ErrorCondition) : BitVec 8 :=
  match errorFlag e with
  | some f => setDiag d f
  | none => d

/-- The error condition of a format error. -/
def formatCondition (e : FormatError) : ErrorCondition :=
  match e with
  | .badSync => .badSync
  | .truncated => .truncated

end Sys2Proof.Machine
end

