-- ==== Sys2Proof/Machine/Parser.lean ====
section
/-! DEFINITION. The framed-message parser: the two pure functions `F.ENCODE` (R131) and `F.VALIDATE` (R140), and their two
instructions. -/

namespace Sys2Proof.Machine

/-- `F.ENCODE` (R131): the frame of a command and a payload, or none (`EncodeError`). -/
def encodeFrame (command : Byte) (payload : List Byte) : Option (List Byte) :=
  if Config.link.lengthMax < 1 + payload.length then none
  else if Config.link.bufCap < Config.link.overhead + 1 + payload.length then none
  else some (Config.link.sync :: BitVec.ofNat 8 (1 + payload.length) :: command :: payload)

/-- The tests of `F.VALIDATE` after SYNC and LENGTH were found (R140, R141): `n` bytes were given, `rest` after LENGTH. -/
def validateBody (n len : Nat) (rest : List Byte) : Except FormatError Frame :=
  if len < Config.link.lengthMin ∨ Config.link.lengthMax < len then .error .truncated
  else if n < Config.link.overhead + len then .error .truncated
  else match rest with
    | [] => .error .truncated
    | command :: tail => .ok { length := len, command := command, payload := tail.take (len - 1) }

/-- `F.VALIDATE` (R140): SYNC is looked at first (R142), surplus bytes are ignored (R143). -/
def validateFrame (bytes : List Byte) : Except FormatError Frame :=
  match bytes with
  | [] => .error .badSync
  | sync :: rest =>
    if sync ≠ Config.link.sync then .error .badSync
    else match rest with
      | [] => .error .truncated
      | len :: body => validateBody bytes.length len.toNat body

/-- What `F.ENCODE` returns to its caller. -/
def encodeResult (command : Byte) (payload : List Byte) : ParserResult :=
  match encodeFrame command payload with
  | some bytes => .encoded bytes
  | none => .encodeError

/-- What `F.VALIDATE` returns to its caller. -/
def validateResult (bytes : List Byte) : ParserResult :=
  match validateFrame bytes with
  | .ok f => .frame f
  | .error e => .formatError e

/-- `F.ENCODE` as an instruction: it reads and writes no state of the link (R130); its result goes to its caller. -/
def execFEncode (command : Byte) (payload : List Byte) (s : State) : Host.Outcome State Fault Refusal :=
  .next (s.withEnv { s.env with parserRet := some (encodeResult command payload) })

/-- `F.VALIDATE` as an instruction: it reads and writes no state of the link (R130); its result goes to its caller. -/
def execFValidate (bytes : List Byte) (s : State) : Host.Outcome State Fault Refusal :=
  .next (s.withEnv { s.env with parserRet := some (validateResult bytes) })

end Sys2Proof.Machine
end

