-- ==== Sys2Proof/Machine/Ops.lean ====
section
/-! DEFINITION. The shared operations: recording an error (the link's analogue of taking an exception, R15, R300), time,
draws, returning a result, the transmit path, dispatch, the session's creation and end, the per-byte callback and the byte
exchange. The per-byte callback is the one asynchronous entry (R315); it returns by ending (R317). -/

namespace Sys2Proof.Machine

/-- Run an event or operation only where it is enabled; elsewhere it is refused by name (R10). -/
def whenEnabled (enabled : Bool) (name : String) (o : Host.Outcome State Fault Refusal) :
    Host.Outcome State Fault Refusal :=
  match enabled with
  | true => o
  | false => .refused (.notEnabled name)

/-- `is_time_up(now, start, dur)`: `((now - start) mod 2^32) ≥ dur` (R323). -/
def isTimeUp (now start : Word32) (dur : Nat) : Bool := decide (dur ≤ (now - start).toNat)

/-- `raise E` on the slave side (R15, R300, R316): the error is recorded in `s.diag` if it is reported there, and nothing
else happens; the recovery is the detecting rule's own, in the same event. -/
def raiseError (e : ErrorCondition) (s : State) : State :=
  s.withSlave { s.slave with diag := recordError s.slave.diag e }

/-- Return a result to the slave application. -/
def returnApp (r : AppResult) (s : State) : State := s.withEnv { s.env with appRet := some r }

/-- Return a result to the master's caller. -/
def returnMaster (r : MasterResult) (s : State) : State := s.withEnv { s.env with masterRet := some r }

/-- `emit board_cmd(command, payload)` (R274). -/
def emitBoard (command : Byte) (payload : List Byte) (s : State) : State :=
  s.withEnv { s.env with emitted := s.env.emitted ++ [{ command := command, payload := payload }] }

/-- The slave shifts out a byte that the spec gives. -/
def shiftOut (b : Byte) (s : State) : State := s.withEnv { s.env with slaveOut := b }

/-- The slave shifts out a `draw`: a free byte, a fresh one each time (R15, U5). -/
def shiftDraw (s : State) : State :=
  s.withEnv { s.env with slaveOut := Config.draw s.env.draws, draws := s.env.draws + 1 }

/-- The body of `S.QUEUE` (R205), also called by the dispatcher as `QUEUE_INTERNAL` (R206): the result and the state after. -/
def queueMessage (command : Byte) (payload : List Byte) (s : State) : AppResult × State :=
  if s.slave.state = .error then (.queueRejected, s)
  else match encodeFrame command payload with
    | none => (.queueEncodeError, s)
    | some r =>
      if s.slave.txPending then (.queueRejected, raiseError .rejected s)
      else (.queueOk, s.withSlave { s.slave with
        txBuf := Memory.writeBlock s.slave.txBuf 0 r, txLen := Fin.ofNat 129 r.length, txPending := true })

/-- The application branch of `D.DISPATCH` (R273): the mailbox takes `[COMMAND] ++ PAYLOAD`, last write wins. -/
def postMessage (f : Frame) (s : State) : State :=
  s.withMailbox { buf := Memory.writeBlock s.mailbox.buf 0 (f.command :: f.payload), len := Fin.ofNat 127 f.length, new := true }

/-- `D.DISPATCH(f)` (R270): the route depends on the COMMAND byte alone (R271). -/
def dispatchFrame (f : Frame) (s : State) : State :=
  if Config.link.appThreshold ≤ f.command then postMessage f s
  else if f.command = Config.link.cmdTest then (queueMessage Config.link.cmdTestResponse [] s).2
  else emitBoard f.command f.payload s

/-- What the completing poll does with the bytes of its session (R190, R191): validate, then dispatch the frame or record
the format error. -/
def deliverBytes (bytes : List Byte) (s : State) : State :=
  match validateFrame bytes with
  | .ok f => dispatchFrame f s
  | .error e => raiseError (formatCondition e) s

/-- The bytes of the session that are still in the Receive Buffer: `n_held = min(s.rx_count, BUF_CAP)` (R190). -/
def heldBytes (s : State) : List Byte := Memory.readBlock s.slave.rxBuf 0 (min s.slave.rxCount.toNat Config.link.bufCap)

/-- Session creation (R185): the direction is `s.mrdy` at this instant (R154). -/
def openSession (s : State) : State :=
  s.withSlave { s.slave with
    tStart := s.slave.now, csAck := true, srdy := true, state := if s.slave.mrdy then .tx else .rx }

/-- The end of an `RX` session, by completion or timeout (R190, R192): counters and lines to their defaults, `IDLE`. -/
def closeRx (s : State) : State :=
  s.withSlave { s.slave with rxCount := 0, rxCursor := 0, srdy := false, csAck := false, state := .idle }

/-- The end of a `TX` session, by completion or timeout (R193, R194): both lines down, the message released, `IDLE`. -/
def closeTx (s : State) : State :=
  s.withSlave { s.slave with
    srdy := false, mrdy := false, txCount := 0, txPending := false, txLen := 0, csAck := false, state := .idle }

/-- The bound of a slave session (R184). -/
def sessionTimedOut (s : State) (bound : Nat) : Bool := isTimeUp s.slave.now s.slave.tStart bound

/-- `S.POLL` in `IDLE` (R185, R186, R187). -/
def pollIdle (s : State) : State :=
  if csLine s then openSession s
  else if s.slave.txPending && !s.slave.mrdy then s.withSlave { s.slave with mrdy := true }
  else s

/-- `S.POLL` in `RX` (R188): completion, then timeout, then nothing. -/
def pollRx (s : State) : State :=
  if csLine s = false then closeRx (deliverBytes (heldBytes s) s)
  else if sessionTimedOut s Config.link.slaveRxTimeoutMs then closeRx (raiseError .rxTimeout s)
  else s

/-- `S.POLL` in `TX` (R193, R194): completion, then timeout, then nothing. -/
def pollTx (s : State) : State :=
  if csLine s = false then closeTx s
  else if sessionTimedOut s Config.link.slaveTxTimeoutMs then closeTx (raiseError .txTimeout s)
  else s

/-- `S.POLL` in `ERROR` (R199): nothing. -/
def pollError (s : State) : State := s

/-- `S.POLL` (R183). -/
def poll (s : State) : State :=
  match s.slave.state with
  | .idle => pollIdle s
  | .rx => pollRx s
  | .tx => pollTx s
  | .error => pollError s

/-- Where `S.BYTE` in `RX` stores: the cursor after the lazy wrap (R196). -/
def storeOffset (cursor : Fin 129) : Nat := if cursor.val = Config.link.bufCap then 0 else cursor.val

/-- `S.BYTE(b)` in `RX` (R196). The momentary deassertion of `s.srdy` is over when the callback ends. -/
def byteRx (b : Byte) (s : State) : State :=
  let off := storeOffset s.slave.rxCursor
  shiftDraw (s.withSlave { s.slave with
    rxCount := s.slave.rxCount + 1
    diag := if s.slave.rxCursor.val = Config.link.bufCap then recordError s.slave.diag .rxOverflow else s.slave.diag
    rxBuf := Memory.write s.slave.rxBuf off b
    rxCursor := Fin.ofNat 129 (off + 1)
    srdy := true })

/-- `S.BYTE(b)` in `TX` (R197): the next byte of the pending frame goes out, or a draw past its end. -/
def byteTx (_b : Byte) (s : State) : State :=
  let t := s.withSlave { s.slave with txCount := s.slave.txCount + 1, srdy := true }
  if s.slave.txCount.toNat < s.slave.txLen.val then shiftOut (Memory.read s.slave.txBuf s.slave.txCount.toNat) t
  else shiftDraw t

/-- `S.BYTE(b)` in `IDLE` or `ERROR` (R198): `b` is lost, a draw goes out. -/
def byteOther (_b : Byte) (s : State) : State := shiftDraw s

/-- `S.BYTE(b)` (R195). -/
def slaveByte (b : Byte) (s : State) : State :=
  match s.slave.state with
  | .idle => byteOther b s
  | .rx => byteRx b s
  | .tx => byteTx b s
  | .error => byteOther b s

/-- `XFER(b)` (R165): the slave's callback runs inside it, and `b_in` is what it shifted out. Before `S.INIT` no callback is
enabled (R181): the exchange still completes and the byte that comes back is a draw (DEDUCED, log entry 8). -/
def exchange (b : Byte) (s : State) : State := if slaveUp s then slaveByte b s else shiftDraw s

end Sys2Proof.Machine
end

