-- ==== Sys2Proof/Machine/Events.lean ====
section
/-! DEFINITION. When an instruction is enabled (R10, R181, R230, R232), which instructions are events of their own (R10), how
the next event is found, and where the link finds its next frame. -/

namespace Sys2Proof.Machine

/-- The master micro-step of a phase is enabled (R232). -/
def inPhase (p : Phase) (s : State) : Bool := masterUp s && decide (s.master.phase = p)

/-- The clocking micro-step of an operation is enabled (R232). -/
def clocking (op : MasterOp) (s : State) : Bool := inPhase .clock s && decide (s.master.op = op)

/-- The slave is initialised and in a state, so that the poll or callback of that state runs (R183, R195). -/
def slaveIn (x : LinkState) (s : State) : Bool := slaveUp s && decide (s.slave.state = x)

/-- When an instruction is enabled. A frame row is a frame in the hands of the slave's completing poll (R87); `S.POLL`,
`S.BYTE`, `XFER` and `D.DISPATCH` are parts of events, enabled where their event runs them (R165, R183, R195, R270). Both initialisations are always
enabled (R353; DEDUCED, log entry 16). -/
def enabled (i : Instr) (s : State) : Bool :=
  match i with
  | .test _ _ => slaveUp s
  | .testResponse _ _ => slaveUp s
  | .board _ _ _ => slaveUp s
  | .app _ _ _ => slaveUp s
  | .led _ _ => slaveUp s
  | .lcdMessage _ _ => slaveUp s
  | .debugLog _ _ => slaveUp s
  | .buzzer _ _ => slaveUp s
  | .syncCheck _ _ => slaveUp s
  | .reset _ _ => slaveUp s
  | .gameRequest _ _ => slaveUp s
  | .gameMove _ _ => slaveUp s
  | .ack _ _ => slaveUp s
  | .nack _ _ => slaveUp s
  | .fEncode _ _ => true
  | .fValidate _ => true
  | .xfer _ => inPhase .clock s && s.master.cs
  | .sInit _ => true
  | .sTick => slaveUp s
  | .sPollIdle => slaveIn .idle s
  | .sPollRx => slaveIn .rx s
  | .sPollTx => slaveIn .tx s
  | .sPollError => slaveIn .error s
  | .sByteRx _ => slaveIn .rx s
  | .sByteTx _ => slaveIn .tx s
  | .sByteOther _ => slaveIn .idle s || slaveIn .error s
  | .sQueue _ _ => slaveUp s
  | .sClrdiag _ => slaveUp s
  | .mInit => true
  | .mTick => masterUp s
  | .mSend _ => inPhase .idle s
  | .mRecv _ => inPhase .idle s
  | .mWait => inPhase .wait s
  | .mClockSend => clocking .send s
  | .mClockRecv => clocking .recv s
  | .mSettle => inPhase .settle s
  | .mRelease => inPhase .idle s
  | .dDispatch _ => slaveUp s
  | .dCheck => slaveUp s
  | .dGet => slaveUp s

/-- The events of R10, exactly: what a step may run by itself. The other rows are parts of these events, and the two parser
functions are pure calls inside them (R130, R190, R205, log entry 6). -/
def isEvent (i : Instr) : Bool :=
  match i with
  | .test _ _ => false
  | .testResponse _ _ => false
  | .board _ _ _ => false
  | .app _ _ _ => false
  | .led _ _ => false
  | .lcdMessage _ _ => false
  | .debugLog _ _ => false
  | .buzzer _ _ => false
  | .syncCheck _ _ => false
  | .reset _ _ => false
  | .gameRequest _ _ => false
  | .gameMove _ _ => false
  | .ack _ _ => false
  | .nack _ _ => false
  | .fEncode _ _ => false
  | .fValidate _ => false
  | .xfer _ => false
  | .sInit _ => true
  | .sTick => true
  | .sPollIdle => false
  | .sPollRx => false
  | .sPollTx => false
  | .sPollError => false
  | .sByteRx _ => false
  | .sByteTx _ => false
  | .sByteOther _ => false
  | .sQueue _ _ => true
  | .sClrdiag _ => true
  | .mInit => true
  | .mTick => true
  | .mSend _ => true
  | .mRecv _ => true
  | .mWait => true
  | .mClockSend => true
  | .mClockRecv => true
  | .mSettle => true
  | .mRelease => true
  | .dDispatch _ => false
  | .dCheck => true
  | .dGet => true

/-- The environment's next event: the first that State holds as decided, else the environment's free choice (R10, "any
enabled event may be scheduled next"). -/
def nextEvent (s : State) : Instr :=
  match s.env.script with
  | i :: _ => i
  | [] => Config.freeEvent s.env.picks

/-- The state once that choice is made. -/
def afterChoice (s : State) : State :=
  match s.env.script with
  | _ :: rest => s.withEnv { s.env with script := rest }
  | [] => s.withEnv { s.env with picks := s.env.picks + 1 }

/-- Place bytes where the link finds its next frame: an open `RX` session of an initialised slave whose bytes they are, with
chip-select already deasserted, and the slave's tick as the next event. That tick's poll completes the session and decodes the
frame (R77, R87, R190). -/
def placeFrame (bytes : List Byte) (s : State) : State :=
  let held := bytes.take Config.link.bufCap
  { s with
    slave := { s.slave with
      inited := true, state := .rx, srdy := true, mrdy := false, csAck := true
      rxBuf := Memory.writeBlock s.slave.rxBuf 0 held
      rxCount := BitVec.ofNat 32 held.length
      rxCursor := Fin.ofNat 129 held.length }
    master := { s.master with cs := false }
    env := { s.env with script := .sTick :: s.env.script } }

end Sys2Proof.Machine
end

