-- ==== Sys2Proof/WellFormed.lean ====
section
/-! DEFINITION. When an instruction is well formed: the operands that the types of `Instr` admit and the spec does not. -/

namespace Sys2Proof

/-- A value of the spec's type `Frame` (R130): `length` in `1..254` and `length = 1 + len(payload)`. -/
def Frame.WellFormed (f : Frame) : Bool :=
  decide (Config.link.lengthMin ≤ f.length) && decide (f.length ≤ Config.link.lengthMax) &&
    decide (f.length = 1 + f.payload.length)

/-- The LENGTH byte of a frame row counts COMMAND and the payload that follows, and is one of `1..254` (R100, R103). -/
def lengthFits (len : Byte) (payload : List Byte) : Bool :=
  decide (Config.link.lengthMin ≤ len.toNat) && decide (len.toNat ≤ Config.link.lengthMax) &&
    decide (len.toNat = 1 + payload.length)

/-- The commands of row `BOARD`: bit 7 clear and neither self-test command (R109). -/
def isBoardCommand (command : Byte) : Bool :=
  decide (command < Config.link.appThreshold) && decide (command ≠ Config.link.cmdTest) &&
    decide (command ≠ Config.link.cmdTestResponse)

/-- The commands of row `APP`: bit 7 set (R106, R109). -/
def isAppCommand (command : Byte) : Bool := decide (Config.link.appThreshold ≤ command)

/-- Well-formed instructions. -/
def Instr.WellFormed (i : Instr) : Bool :=
  match i with
  | .test len payload => lengthFits len payload
  | .testResponse len payload => lengthFits len payload
  | .board len command payload => lengthFits len payload && isBoardCommand command
  | .app len command payload => lengthFits len payload && isAppCommand command
  | .led len payload => lengthFits len payload
  | .lcdMessage len payload => lengthFits len payload
  | .debugLog len payload => lengthFits len payload
  | .buzzer len payload => lengthFits len payload
  | .syncCheck len payload => lengthFits len payload
  | .reset len payload => lengthFits len payload
  | .gameRequest len payload => lengthFits len payload
  | .gameMove len payload => lengthFits len payload
  | .ack len payload => lengthFits len payload
  | .nack len payload => lengthFits len payload
  | .fEncode _ _ => true
  | .fValidate _ => true
  | .xfer _ => true
  | .sInit _ => true
  | .sTick => true
  | .sPollIdle => true
  | .sPollRx => true
  | .sPollTx => true
  | .sPollError => true
  | .sByteRx _ => true
  | .sByteTx _ => true
  | .sByteOther _ => true
  | .sQueue _ _ => true
  | .sClrdiag _ => true
  | .mInit => true
  | .mTick => true
  | .mSend _ => true
  | .mRecv _ => true
  | .mWait => true
  | .mClockSend => true
  | .mClockRecv => true
  | .mSettle => true
  | .mRelease => true
  | .dDispatch frame => frame.WellFormed
  | .dCheck => true
  | .dGet => true

end Sys2Proof
end

