-- ==== Sys2Proof/Machine/Dispatcher.lean ====
section
/-! DEFINITION. The command dispatcher and the application mailbox (R270 to R281). -/

namespace Sys2Proof.Machine

/-- `D.DISPATCH(f)` (R270). Its operand is a frame (R130); an application frame longer than the mailbox, which no buffer of
this hardware can supply, has no cells to go to (R15, R33; DESIGN CHOICE, log entry 7). -/
def execDDispatch (frame : Frame) (s : State) : Host.Outcome State Fault Refusal :=
  whenEnabled (enabled (.dDispatch frame) s) "D.DISPATCH"
    (if frame.WellFormed = false then .refused .illFormedFrame
    else if Config.link.appThreshold ≤ frame.command ∧ s.capacity .mbox < frame.length then .fault (.outOfBounds .mbox)
    else .next (dispatchFrame frame s))

/-- `D.CHECK` (R280): it reads the mailbox and changes nothing in it. -/
def execDCheck (s : State) : Host.Outcome State Fault Refusal :=
  whenEnabled (enabled .dCheck s) "D.CHECK"
    (.next (returnApp (.checked (if s.mailbox.new then some (Memory.read s.mailbox.buf 0) else none)) s))

/-- `D.GET` (R281): it copies the message out and clears the flag; with the flag clear it returns the empty sequence. -/
def execDGet (s : State) : Host.Outcome State Fault Refusal :=
  whenEnabled (enabled .dGet s) "D.GET"
    (.next (returnApp (.got (if s.mailbox.new then Memory.readBlock s.mailbox.buf 0 s.mailbox.len.val else []))
      (s.withMailbox { s.mailbox with new := false })))

end Sys2Proof.Machine
end

