-- ==== Sys2Proof/Decode.lean ====
section
/-! DEFINITION. Decoding a frame from the opcode table (R104, R109) and encoding one (R100). The OP rows of the table have no
bits (R118): nothing decodes to them and they have no encoding. -/

namespace Sys2Proof

/-- The header word `H` of a frame: SYNC in bits 23:16, LENGTH in bits 15:8, COMMAND in bits 7:0 (R104). -/
def headerWord (sync len command : Byte) : BitVec 24 := sync ++ len ++ command

/-- Whether a row of the table selects a header: `(H AND mask) = match` (R104). -/
def rowSelects (mask pattern h : BitVec 24) : Bool := h &&& mask == pattern

/-- The frame that the table alone gives a header (R104, R109): the rows in the table's order, the first that matches wins.
The rows with an open value come after `BOARD` and `APP`, which already take all their words. -/
def decodeHeader (len command : Byte) (h : BitVec 24) (payload : List Byte) : Except FormatError Instr :=
  if rowSelects 0xFF00FF 0x5A007E h then .ok (.test len payload)
  else if rowSelects 0xFF00FF 0x5A007F h then .ok (.testResponse len payload)
  else if rowSelects 0xFF0080 0x5A0000 h then .ok (.board len command payload)
  else if rowSelects 0xFF0080 0x5A0080 h then .ok (.app len command payload)
  else .error .badSync

/-- The decoder, total on any bytes. It looks for SYNC first (R142), then for a whole header; the payload is what stands at
offsets `3 .. 1 + LENGTH`, and bytes beyond are surplus (R114). That the payload is whole is checked by `F.VALIDATE` when
the frame is delivered, not here. -/
def decode (bytes : List Byte) : Except FormatError Instr :=
  match bytes with
  | sync :: len :: command :: rest =>
    if sync = Config.link.sync then
      decodeHeader len command (headerWord sync len command) (rest.take (len.toNat - 1))
    else .error .badSync
  | sync :: _ => if sync = Config.link.sync then .error .truncated else .error .badSync
  | [] => .error .badSync

/-- The named frame that a class row becomes once the open values are given (R109, "refine `BOARD` and `APP`"). -/
def refineNamed (i : Instr) : Instr :=
  match i with
  | .board len command payload =>
    if command = Config.link.cmdLed then .led len payload
    else if command = Config.link.cmdLcdMessage then .lcdMessage len payload
    else if command = Config.link.cmdDebugLog then .debugLog len payload
    else if command = Config.link.cmdBuzzer then .buzzer len payload
    else .board len command payload
  | .app len command payload =>
    if command = Config.link.cmdSyncCheck then .syncCheck len payload
    else if command = Config.link.cmdReset then .reset len payload
    else if command = Config.link.cmdGameRequest then .gameRequest len payload
    else if command = Config.link.cmdGameMove then .gameMove len payload
    else if command = Config.link.cmdAck then .ack len payload
    else if command = Config.link.cmdNack then .nack len payload
    else .app len command payload
  | i => i

/-- The decoder with the open values given: a named command decodes to its own row (R109). -/
def decodeNamed (bytes : List Byte) : Except FormatError Instr :=
  match decode bytes with
  | .ok i => .ok (refineNamed i)
  | .error e => .error e

/-- The row that the table's order gives a frame: the class row, for a named command (R104, R109). -/
def tableRow (i : Instr) : Instr :=
  match i with
  | .led len payload => .board len Config.link.cmdLed payload
  | .lcdMessage len payload => .board len Config.link.cmdLcdMessage payload
  | .debugLog len payload => .board len Config.link.cmdDebugLog payload
  | .buzzer len payload => .board len Config.link.cmdBuzzer payload
  | .syncCheck len payload => .app len Config.link.cmdSyncCheck payload
  | .reset len payload => .app len Config.link.cmdReset payload
  | .gameRequest len payload => .app len Config.link.cmdGameRequest payload
  | .gameMove len payload => .app len Config.link.cmdGameMove payload
  | .ack len payload => .app len Config.link.cmdAck payload
  | .nack len payload => .app len Config.link.cmdNack payload
  | i => i

/-- The bytes of a frame in wire order (R70, R100). -/
def frameBytes (len command : Byte) (payload : List Byte) : List Byte := Config.link.sync :: len :: command :: payload

/-- The encoder: the bytes of a frame row; an OP row has none (R118). -/
def encode (i : Instr) : Option (List Byte) :=
  match i with
  | .test len payload => some (frameBytes len Config.link.cmdTest payload)
  | .testResponse len payload => some (frameBytes len Config.link.cmdTestResponse payload)
  | .board len command payload => some (frameBytes len command payload)
  | .app len command payload => some (frameBytes len command payload)
  | .led len payload => some (frameBytes len Config.link.cmdLed payload)
  | .lcdMessage len payload => some (frameBytes len Config.link.cmdLcdMessage payload)
  | .debugLog len payload => some (frameBytes len Config.link.cmdDebugLog payload)
  | .buzzer len payload => some (frameBytes len Config.link.cmdBuzzer payload)
  | .syncCheck len payload => some (frameBytes len Config.link.cmdSyncCheck payload)
  | .reset len payload => some (frameBytes len Config.link.cmdReset payload)
  | .gameRequest len payload => some (frameBytes len Config.link.cmdGameRequest payload)
  | .gameMove len payload => some (frameBytes len Config.link.cmdGameMove payload)
  | .ack len payload => some (frameBytes len Config.link.cmdAck payload)
  | .nack len payload => some (frameBytes len Config.link.cmdNack payload)
  | .fEncode _ _ => none
  | .fValidate _ => none
  | .xfer _ => none
  | .sInit _ => none
  | .sTick => none
  | .sPollIdle => none
  | .sPollRx => none
  | .sPollTx => none
  | .sPollError => none
  | .sByteRx _ => none
  | .sByteTx _ => none
  | .sByteOther _ => none
  | .sQueue _ _ => none
  | .sClrdiag _ => none
  | .mInit => none
  | .mTick => none
  | .mSend _ => none
  | .mRecv _ => none
  | .mWait => none
  | .mClockSend => none
  | .mClockRecv => none
  | .mSettle => none
  | .mRelease => none
  | .dDispatch _ => none
  | .dCheck => none
  | .dGet => none

/-- The bytes of a frame given as a number in the opcode table's numbering: the header word is bits 23:0, first byte on
the wire in the most significant place (R104; DEDUCED, log entry 14); payload byte `k` is bits `24 + 8k` up. Bits from `nbits` on are 0, and the
payload has the `LENGTH - 1` bytes that the header announces (R103). -/
def tableWordBytes (nbits w : Nat) : List Byte :=
  let v := w % 2 ^ nbits
  let len : Byte := BitVec.ofNat 8 (v / 2 ^ 8)
  BitVec.ofNat 8 (v / 2 ^ 16) :: len :: BitVec.ofNat 8 v ::
    (List.range (len.toNat - 1)).map fun k => BitVec.ofNat 8 (v / 2 ^ (24 + 8 * k))

/-- The instruction that the decoder reads from a number in the opcode table's numbering. -/
def decodeTableWord (nbits w : Nat) : Option Instr :=
  match decode (tableWordBytes nbits w) with
  | .ok i => some i
  | .error _ => none

end Sys2Proof
end

