-- ==== Sys2Proof/Machine/Frames.lean ====
section
/-! DEFINITION. The frame rows of the opcode table: what the completing poll does with each frame (R190, R270 to R277). Every
one validates the frame's bytes, as far as a 128-byte buffer holds them (R102), and routes it by its COMMAND byte. -/

namespace Sys2Proof.Machine

/-- A frame handed to the command decoder: its bytes as the Receive Buffer holds them are delivered
(DEDUCED, log entry 13). -/
def deliverFrame (name : String) (len command : Byte) (payload : List Byte) (s : State) :
    Host.Outcome State Fault Refusal :=
  whenEnabled (slaveUp s) name (.next (deliverBytes ((frameBytes len command payload).take Config.link.bufCap) s))

/-- `TEST` (R275): the self-test answer becomes the pending message. -/
def execTest (len : Byte) (payload : List Byte) (s : State) : Host.Outcome State Fault Refusal :=
  deliverFrame "TEST" len Config.link.cmdTest payload s

/-- `TEST_RESPONSE` (R276): an output event to the board handler. -/
def execTestResponse (len : Byte) (payload : List Byte) (s : State) : Host.Outcome State Fault Refusal :=
  deliverFrame "TEST_RESPONSE" len Config.link.cmdTestResponse payload s

/-- `BOARD` (R274): an output event to the board handler. -/
def execBoard (len command : Byte) (payload : List Byte) (s : State) : Host.Outcome State Fault Refusal :=
  deliverFrame "BOARD" len command payload s

/-- `APP` (R273): the mailbox takes the message. -/
def execApp (len command : Byte) (payload : List Byte) (s : State) : Host.Outcome State Fault Refusal :=
  deliverFrame "APP" len command payload s

/-- `LED` (R107, R274). -/
def execLed (len : Byte) (payload : List Byte) (s : State) : Host.Outcome State Fault Refusal :=
  deliverFrame "LED" len Config.link.cmdLed payload s

/-- `LCD_MESSAGE` (R107, R274). -/
def execLcdMessage (len : Byte) (payload : List Byte) (s : State) : Host.Outcome State Fault Refusal :=
  deliverFrame "LCD_MESSAGE" len Config.link.cmdLcdMessage payload s

/-- `DEBUG_LOG` (R107, R274). -/
def execDebugLog (len : Byte) (payload : List Byte) (s : State) : Host.Outcome State Fault Refusal :=
  deliverFrame "DEBUG_LOG" len Config.link.cmdDebugLog payload s

/-- `BUZZER` (R107, R274). -/
def execBuzzer (len : Byte) (payload : List Byte) (s : State) : Host.Outcome State Fault Refusal :=
  deliverFrame "BUZZER" len Config.link.cmdBuzzer payload s

/-- `SYNC_CHECK` (R107, R277). -/
def execSyncCheck (len : Byte) (payload : List Byte) (s : State) : Host.Outcome State Fault Refusal :=
  deliverFrame "SYNC_CHECK" len Config.link.cmdSyncCheck payload s

/-- `RESET` (R107, R277): an application message; it resets nothing (R354). -/
def execReset (len : Byte) (payload : List Byte) (s : State) : Host.Outcome State Fault Refusal :=
  deliverFrame "RESET" len Config.link.cmdReset payload s

/-- `GAME_REQUEST` (R107, R277). -/
def execGameRequest (len : Byte) (payload : List Byte) (s : State) : Host.Outcome State Fault Refusal :=
  deliverFrame "GAME_REQUEST" len Config.link.cmdGameRequest payload s

/-- `GAME_MOVE` (R107, R277). -/
def execGameMove (len : Byte) (payload : List Byte) (s : State) : Host.Outcome State Fault Refusal :=
  deliverFrame "GAME_MOVE" len Config.link.cmdGameMove payload s

/-- `ACK` (R107, R277). -/
def execAck (len : Byte) (payload : List Byte) (s : State) : Host.Outcome State Fault Refusal :=
  deliverFrame "ACK" len Config.link.cmdAck payload s

/-- `NACK` (R107, R277). -/
def execNack (len : Byte) (payload : List Byte) (s : State) : Host.Outcome State Fault Refusal :=
  deliverFrame "NACK" len Config.link.cmdNack payload s

end Sys2Proof.Machine
end

