-- ==== Sys2Proof/Machine/Master.lean ====
section
/-! DEFINITION. The master transfer controller (R230 to R254). -/

namespace Sys2Proof.Machine

/-- `M.INIT` (R230), the reset of the master side (R350). The counter `m.now` and the buffer `m.rx` are not written. -/
def execMInit (s : State) : Host.Outcome State Fault Refusal :=
  .next (s.withMaster { s.master with
    inited := true, cs := false, phase := .idle, op := .send
    idx := 0, n := 0, expected := 0, cap := 0, tStart := 0, tx := [] })

/-- `M.TICK` (R231). -/
def execMTick (s : State) : Host.Outcome State Fault Refusal :=
  whenEnabled (enabled .mTick s) "M.TICK" (.next (s.withMaster { s.master with now := s.master.now + 1 }))

/-- `M.SEND(bytes)`, the start event (R235). -/
def execMSend (bytes : List Byte) (s : State) : Host.Outcome State Fault Refusal :=
  whenEnabled (enabled (.mSend bytes) s) "M.SEND" (.next (s.withMaster { s.master with
    op := .send, tx := bytes, n := bytes.length, idx := 0, cs := true, tStart := s.master.now, phase := .wait }))

/-- `M.RECV(cap)`, the start event (R245). -/
def execMRecv (cap : Nat) (s : State) : Host.Outcome State Fault Refusal :=
  whenEnabled (enabled (.mRecv cap) s) "M.RECV" (.next (s.withMaster { s.master with
    op := .recv, cap := cap, idx := 0, expected := Config.link.overhead, cs := true, tStart := s.master.now
    phase := .wait }))

/-- The readiness branch of `M.WAIT`: the busy check of `send` (R238), none in `receive` (R246). -/
def masterReady (s : State) : State :=
  match s.master.op with
  | .send =>
    if mrdyLine s then returnMaster .errBusy (s.withMaster { s.master with phase := .idle })
    else s.withMaster { s.master with phase := .clock }
  | .recv => s.withMaster { s.master with phase := .clock }

/-- `M.WAIT` (R236): readiness, then the bound (R237), then nothing (R239). -/
def execMWait (s : State) : Host.Outcome State Fault Refusal :=
  whenEnabled (enabled .mWait s) "M.WAIT" (.next
    (if srdyLine s then masterReady s
    else if isTimeUp s.master.now s.master.tStart Config.link.masterReadyTimeoutMs then
      returnMaster .errTimeout (s.withMaster { s.master with cs := false, phase := .idle })
    else s))

/-- `M.CLOCK` of `send` (R240, R241). Its fault is in no reachable state (DESIGN CHOICE, log entry 10). -/
def execMClockSend (s : State) : Host.Outcome State Fault Refusal :=
  whenEnabled (enabled .mClockSend s) "M.CLOCK.SEND"
    (if s.master.idx < s.master.n then
      match s.master.tx[s.master.idx]? with
      | some b => .next ((exchange b s).withMaster { s.master with idx := s.master.idx + 1 })
      | none => .fault (.outOfBounds .mtx)
    else .next (s.withMaster { s.master with phase := .settle }))

/-- The master captures one byte (R248): it is stored, and at `LENGTH_INDEX` it extends the expected count. -/
def captureByte (b : Byte) (m : Master) : Master :=
  { m with
    rx := Memory.write m.rx m.idx b
    expected := if m.idx = Config.link.lengthIndex then m.expected + b.toNat else m.expected
    idx := m.idx + 1 }

/-- `M.CLOCK` of `receive` (R248, R249). -/
def execMClockRecv (s : State) : Host.Outcome State Fault Refusal :=
  whenEnabled (enabled .mClockRecv s) "M.CLOCK.RECV"
    (if s.master.idx < min s.master.expected s.master.cap then
      .next ((exchange Config.link.masterDummy s).withMaster
        (captureByte (exchange Config.link.masterDummy s).env.slaveOut s.master))
    else .next (s.withMaster { s.master with phase := .settle }))

/-- What a finished operation returns (R242). -/
def settleResult (m : Master) : MasterResult :=
  match m.op with
  | .send => .sendOk
  | .recv => .recvOk m.idx

/-- `M.SETTLE` (R242). -/
def execMSettle (s : State) : Host.Outcome State Fault Refusal :=
  whenEnabled (enabled .mSettle s) "M.SETTLE"
    (.next (returnMaster (settleResult s.master) (s.withMaster { s.master with cs := false, phase := .idle })))

/-- `M.RELEASE` (R254). -/
def execMRelease (s : State) : Host.Outcome State Fault Refusal :=
  whenEnabled (enabled .mRelease s) "M.RELEASE" (.next (s.withMaster { s.master with cs := false }))

end Sys2Proof.Machine
end

