-- ==== Sys2Proof/Machine/Slave.lean ====
section
/-! DEFINITION. The slave link state machine (R180 to R210) and the byte exchange (R165). -/

namespace Sys2Proof.Machine

/-- `XFER(b)` (R165): `b_in` is `slaveOut` of the state after. -/
def execXfer (b : Byte) (s : State) : Host.Outcome State Fault Refusal :=
  whenEnabled (enabled (.xfer b) s) "XFER" (.next (exchange b s))

/-- `S.INIT(resource_ok)` (R180), the reset of the slave side (R350). The counter `s.now` and the buffers are not written. -/
def execSInit (resourceOk : Bool) (s : State) : Host.Outcome State Fault Refusal :=
  .next { s with
    slave := { s.slave with
      inited := true, srdy := false, mrdy := false, csAck := false, txPending := false
      rxCursor := 0, rxCount := 0, txLen := 0, txCount := 0, tStart := 0, diag := 0
      state := if resourceOk then .idle else .error }
    mailbox := { s.mailbox with new := false, len := 0 } }

/-- `S.TICK` (R182): the counter advances, then one poll, which sees the new value. -/
def execSTick (s : State) : Host.Outcome State Fault Refusal :=
  whenEnabled (enabled .sTick s) "S.TICK" (.next (poll (s.withSlave { s.slave with now := s.slave.now + 1 })))

/-- `S.POLL` in `IDLE` (R185 to R187). -/
def execSPollIdle (s : State) : Host.Outcome State Fault Refusal :=
  whenEnabled (enabled .sPollIdle s) "S.POLL.IDLE" (.next (pollIdle s))

/-- `S.POLL` in `RX` (R188 to R192). -/
def execSPollRx (s : State) : Host.Outcome State Fault Refusal :=
  whenEnabled (enabled .sPollRx s) "S.POLL.RX" (.next (pollRx s))

/-- `S.POLL` in `TX` (R193, R194). -/
def execSPollTx (s : State) : Host.Outcome State Fault Refusal :=
  whenEnabled (enabled .sPollTx s) "S.POLL.TX" (.next (pollTx s))

/-- `S.POLL` in `ERROR` (R199). -/
def execSPollError (s : State) : Host.Outcome State Fault Refusal :=
  whenEnabled (enabled .sPollError s) "S.POLL.ERROR" (.next (pollError s))

/-- `S.BYTE(b)` in `RX` (R196). -/
def execSByteRx (b : Byte) (s : State) : Host.Outcome State Fault Refusal :=
  whenEnabled (enabled (.sByteRx b) s) "S.BYTE.RX" (.next (byteRx b s))

/-- `S.BYTE(b)` in `TX` (R197). -/
def execSByteTx (b : Byte) (s : State) : Host.Outcome State Fault Refusal :=
  whenEnabled (enabled (.sByteTx b) s) "S.BYTE.TX" (.next (byteTx b s))

/-- `S.BYTE(b)` in `IDLE` or `ERROR` (R198). -/
def execSByteOther (b : Byte) (s : State) : Host.Outcome State Fault Refusal :=
  whenEnabled (enabled (.sByteOther b) s) "S.BYTE.OTHER" (.next (byteOther b s))

/-- `S.QUEUE(command, payload)` (R205). -/
def execSQueue (command : Byte) (payload : List Byte) (s : State) : Host.Outcome State Fault Refusal :=
  whenEnabled (enabled (.sQueue command payload) s) "S.QUEUE"
    (.next (returnApp (queueMessage command payload s).1 (queueMessage command payload s).2))

/-- `S.CLRDIAG(mask)` (R210). -/
def execSClrdiag (mask : BitVec 5) (s : State) : Host.Outcome State Fault Refusal :=
  whenEnabled (enabled (.sClrdiag mask) s) "S.CLRDIAG"
    (.next (s.withSlave { s.slave with diag := clearDiag s.slave.diag mask }))

end Sys2Proof.Machine
end

