-- ==== Sys2Proof/Machine/Dispatch.lean ====
section
/-! DEFINITION. The meaning of every row of the opcode table: one arm per constructor of `Instr`. -/

namespace Sys2Proof.Machine

def exec (i : Instr) (s : State) : Host.Outcome State Fault Refusal :=
  match i with
  | .test len payload => Sys2Proof.Machine.execTest len payload s
  | .testResponse len payload => Sys2Proof.Machine.execTestResponse len payload s
  | .board len command payload => Sys2Proof.Machine.execBoard len command payload s
  | .app len command payload => Sys2Proof.Machine.execApp len command payload s
  | .led len payload => Sys2Proof.Machine.execLed len payload s
  | .lcdMessage len payload => Sys2Proof.Machine.execLcdMessage len payload s
  | .debugLog len payload => Sys2Proof.Machine.execDebugLog len payload s
  | .buzzer len payload => Sys2Proof.Machine.execBuzzer len payload s
  | .syncCheck len payload => Sys2Proof.Machine.execSyncCheck len payload s
  | .reset len payload => Sys2Proof.Machine.execReset len payload s
  | .gameRequest len payload => Sys2Proof.Machine.execGameRequest len payload s
  | .gameMove len payload => Sys2Proof.Machine.execGameMove len payload s
  | .ack len payload => Sys2Proof.Machine.execAck len payload s
  | .nack len payload => Sys2Proof.Machine.execNack len payload s
  | .fEncode command payload => Sys2Proof.Machine.execFEncode command payload s
  | .fValidate bytes => Sys2Proof.Machine.execFValidate bytes s
  | .xfer b => Sys2Proof.Machine.execXfer b s
  | .sInit resourceOk => Sys2Proof.Machine.execSInit resourceOk s
  | .sTick => Sys2Proof.Machine.execSTick s
  | .sPollIdle => Sys2Proof.Machine.execSPollIdle s
  | .sPollRx => Sys2Proof.Machine.execSPollRx s
  | .sPollTx => Sys2Proof.Machine.execSPollTx s
  | .sPollError => Sys2Proof.Machine.execSPollError s
  | .sByteRx b => Sys2Proof.Machine.execSByteRx b s
  | .sByteTx b => Sys2Proof.Machine.execSByteTx b s
  | .sByteOther b => Sys2Proof.Machine.execSByteOther b s
  | .sQueue command payload => Sys2Proof.Machine.execSQueue command payload s
  | .sClrdiag mask => Sys2Proof.Machine.execSClrdiag mask s
  | .mInit => Sys2Proof.Machine.execMInit s
  | .mTick => Sys2Proof.Machine.execMTick s
  | .mSend bytes => Sys2Proof.Machine.execMSend bytes s
  | .mRecv cap => Sys2Proof.Machine.execMRecv cap s
  | .mWait => Sys2Proof.Machine.execMWait s
  | .mClockSend => Sys2Proof.Machine.execMClockSend s
  | .mClockRecv => Sys2Proof.Machine.execMClockRecv s
  | .mSettle => Sys2Proof.Machine.execMSettle s
  | .mRelease => Sys2Proof.Machine.execMRelease s
  | .dDispatch frame => Sys2Proof.Machine.execDDispatch frame s
  | .dCheck => Sys2Proof.Machine.execDCheck s
  | .dGet => Sys2Proof.Machine.execDGet s

end Sys2Proof.Machine
end

