-- ==== Sys2Proof/Machine/Step.lean ====
section
/-! DEFINITION. One step of the link: the environment's next event runs, if it is enabled (R10, R12, R81). -/

namespace Sys2Proof.Machine

/-- One step. The next event runs whole, by itself (R10, R75). A choice that is no event or is not enabled is an event that
does not happen: the choice is used up and nothing else changes. -/
def step (s : State) : Host.Outcome State Fault Refusal :=
  if isEvent (nextEvent s) && enabled (nextEvent s) (afterChoice s) then exec (nextEvent s) (afterChoice s)
  else .next (afterChoice s)

/-- The frame that a number in the opcode table's numbering stands for, placed where the next step finds it: the next step is
the slave's tick whose poll completes the session that received it and decodes it (log entry 5). -/
def State.withFetchWord (s : State) (nbits w : Nat) : State := placeFrame (tableWordBytes nbits w) s

end Sys2Proof.Machine
end

