-- ==== Sys2Proof/Machine/Registers.lean ====
section
/-! DEFINITION. The register view (R32): the named fields, where they stand, what they hold, and who may read them. No field is
writable by direct access, and reading changes nothing (R76, R293). -/

namespace Sys2Proof.Machine

/-- The named registers of R32. -/
inductive Register where
  | sStatus
  | sLines
  | sDiag
  | sRxcnt
  | sRxcur
  | sTxcnt
  | sTxlen
  | sTstart
  | sNow
  | mbLen
  | mStatus
  | mLines
  | mNow
  deriving DecidableEq, Repr, Inhabited

/-- The fields of the register view (R32). A register with one field has one entry. -/
inductive RegisterField where
  | state
  | csAck
  | txPending
  | mbNew
  | srdy
  | mrdy
  | csIn
  | diagFlags
  | rxCount
  | rxCursor
  | txCount
  | txLen
  | tStart
  | slaveNow
  | mailboxLen
  | phase
  | op
  | cs
  | srdyIn
  | mrdyIn
  | masterNow
  deriving DecidableEq, Repr, Inhabited

/-- The two agents that look at registers (R32). -/
inductive Reader where
  | slaveApplication
  | masterCaller
  deriving DecidableEq, Repr, Inhabited

/-- Where a field stands: its register, its lowest bit and its width (R32). -/
def fieldPlace (f : RegisterField) : Register × Nat × Nat :=
  match f with
  | .state => (.sStatus, 0, 2)
  | .csAck => (.sStatus, 2, 1)
  | .txPending => (.sStatus, 3, 1)
  | .mbNew => (.sStatus, 4, 1)
  | .srdy => (.sLines, 0, 1)
  | .mrdy => (.sLines, 1, 1)
  | .csIn => (.sLines, 2, 1)
  | .diagFlags => (.sDiag, 0, 5)
  | .rxCount => (.sRxcnt, 0, 32)
  | .rxCursor => (.sRxcur, 0, 8)
  | .txCount => (.sTxcnt, 0, 32)
  | .txLen => (.sTxlen, 0, 8)
  | .tStart => (.sTstart, 0, 32)
  | .slaveNow => (.sNow, 0, 32)
  | .mailboxLen => (.mbLen, 0, 7)
  | .phase => (.mStatus, 0, 2)
  | .op => (.mStatus, 2, 1)
  | .cs => (.mLines, 0, 1)
  | .srdyIn => (.mLines, 1, 1)
  | .mrdyIn => (.mLines, 2, 1)
  | .masterNow => (.mNow, 0, 32)

/-- What a field holds (R32, column "element"). -/
def fieldValue (f : RegisterField) (s : State) : Nat :=
  match f with
  | .state => (linkStateBits s.slave.state).toNat
  | .csAck => s.slave.csAck.toNat
  | .txPending => s.slave.txPending.toNat
  | .mbNew => s.mailbox.new.toNat
  | .srdy => s.slave.srdy.toNat
  | .mrdy => s.slave.mrdy.toNat
  | .csIn => (csLine s).toNat
  | .diagFlags => (zext 5 s.slave.diag).toNat
  | .rxCount => s.slave.rxCount.toNat
  | .rxCursor => s.slave.rxCursor.val
  | .txCount => s.slave.txCount.toNat
  | .txLen => s.slave.txLen.val
  | .tStart => s.slave.tStart.toNat
  | .slaveNow => s.slave.now.toNat
  | .mailboxLen => s.mailbox.len.val
  | .phase => (phaseBits s.master.phase).toNat
  | .op => (opBits s.master.op).toNat
  | .cs => s.master.cs.toNat
  | .srdyIn => (srdyLine s).toNat
  | .mrdyIn => (mrdyLine s).toNat
  | .masterNow => s.master.now.toNat

/-- Every field of the register view. -/
def allFields : List RegisterField :=
  [.state, .csAck, .txPending, .mbNew, .srdy, .mrdy, .csIn, .diagFlags, .rxCount, .rxCursor, .txCount, .txLen, .tStart,
    .slaveNow, .mailboxLen, .phase, .op, .cs, .srdyIn, .mrdyIn, .masterNow]

/-- A register as a word: each of its fields at its place, every other bit 0 (R32, reserved bits "r as 0"; DEDUCED, log
entry 17). -/
def readRegister (r : Register) (s : State) : Word32 :=
  allFields.foldl (fun w f =>
    if (fieldPlace f).1 = r then w ||| (BitVec.ofNat 32 (fieldValue f s) <<< (fieldPlace f).2.1) else w) 0

/-- The access columns of R32: the three lines are wires that both agents may read, each in the registers of its own side
or of the line's driver; every other field is one side's. -/
def mayRead (a : Reader) (f : RegisterField) : Bool :=
  match f with
  | .state => a == .slaveApplication
  | .csAck => a == .slaveApplication
  | .txPending => a == .slaveApplication
  | .mbNew => a == .slaveApplication
  | .srdy => true
  | .mrdy => true
  | .csIn => a == .slaveApplication
  | .diagFlags => a == .slaveApplication
  | .rxCount => a == .slaveApplication
  | .rxCursor => a == .slaveApplication
  | .txCount => a == .slaveApplication
  | .txLen => a == .slaveApplication
  | .tStart => a == .slaveApplication
  | .slaveNow => a == .slaveApplication
  | .mailboxLen => a == .slaveApplication
  | .phase => a == .masterCaller
  | .op => a == .masterCaller
  | .cs => true
  | .srdyIn => a == .masterCaller
  | .mrdyIn => a == .masterCaller
  | .masterNow => a == .masterCaller

/-- `peer_has_data`: the level of MRDY, visible to the master's caller at any time (R253). -/
def peerHasData (s : State) : Bool := mrdyLine s

end Sys2Proof.Machine
end

