-- ==== Sys2Proof/Safety.lean ====
section
/-! DEFINITION. What statements about the link speak of: the state invariants (R37 and what makes them inductive), memory in
canonical form, and a sequence of operations run one after the other. -/

namespace Sys2Proof.Machine

/-- Every cell of a buffer lies below its capacity (R37 item 6, "Overflow containment"). -/
def Memory.within (cap : Nat) (m : Memory) : Prop := ∀ c ∈ m, c.1 < cap

/-- The write cursor follows the received-byte counter (R37 item 7, R196): the position after the last byte, in `1..128`; at
count 0 it is 0, or 128 when the counter has wrapped (R286). -/
def cursorFollows (count : Word32) (cursor : Fin 129) : Prop :=
  if count.toNat = 0 then cursor.val = 0 ∨ cursor.val = 128 else cursor.val = (count.toNat - 1) % 128 + 1

/-- The pending message is a frame that `F.ENCODE` built (R29, R205). -/
def pendingIsFrame (x : Slave) : Prop :=
  ∃ command payload, encodeFrame command payload = some (Memory.readBlock x.txBuf 0 x.txLen.val)

/-- What each link state says of the slave's lines, flags and counters (R37 items 1 to 5 and 7). -/
def stateInv (x : Slave) : Prop :=
  match x.state with
  | .idle => x.srdy = false ∧ x.csAck = false ∧ x.rxCount = 0 ∧ x.rxCursor = 0 ∧ x.txCount = 0 ∧
      (x.mrdy = true → x.txPending = true)
  | .rx => x.srdy = true ∧ x.csAck = true ∧ x.mrdy = false ∧ x.txCount = 0 ∧ cursorFollows x.rxCount x.rxCursor
  | .tx => x.srdy = true ∧ x.csAck = true ∧ x.mrdy = true ∧ x.txPending = true ∧ x.rxCount = 0 ∧ x.rxCursor = 0
  | .error => x.srdy = false ∧ x.mrdy = false ∧ x.csAck = false ∧ x.txPending = false ∧ x.rxCount = 0 ∧
      x.rxCursor = 0 ∧ x.txCount = 0

/-- The invariant of an initialised slave: its state's, the pending message's, and the reserved bits of `s.diag` (R31). -/
def SlaveInv (x : Slave) : Prop :=
  stateInv x ∧ (x.txPending = true → pendingIsFrame x) ∧ x.diag.toNat < 32

/-- The invariant of an initialised master (R22, R25): chip-select is asserted in every phase but `M_IDLE`, and the index and
the expected count are where the operation and the phase put them (R235, R240, R245, R248). -/
def MasterInv (x : Master) : Prop :=
  x.n = x.tx.length ∧
  (x.phase ≠ .idle → x.cs = true) ∧
  (x.phase = .wait → x.idx = 0) ∧
  (x.phase ≠ .idle → x.op = .send → x.idx ≤ x.n) ∧
  (x.phase = .settle → x.op = .send → x.idx = x.n) ∧
  (x.phase ≠ .idle → x.op = .recv → x.idx ≤ x.cap ∧ x.idx ≤ x.expected ∧
    x.expected = if x.idx ≤ 1 then 2 else 2 + (Memory.read x.rx 1).toNat) ∧
  (x.phase = .settle → x.op = .recv → x.idx = min x.expected x.cap)

/-- The buffers are in canonical form and inside their capacities (R33). -/
def BufferInv (s : State) : Prop :=
  s.slave.rxBuf.wf ∧ Memory.within 128 s.slave.rxBuf ∧ s.slave.txBuf.wf ∧ Memory.within 128 s.slave.txBuf ∧
  s.mailbox.buf.wf ∧ Memory.within 126 s.mailbox.buf ∧ s.master.rx.wf

/-- The invariant of the link: of each side once it is initialised, of the mailbox, and of the buffers. -/
def LinkInv (s : State) : Prop :=
  (s.slave.inited = true → SlaveInv s.slave ∧ (s.mailbox.new = true → 1 ≤ s.mailbox.len.val)) ∧
  (s.master.inited = true → MasterInv s.master) ∧ BufferInv s

/-- Whether `RX_OVERFLOW` has been set in the session that is open after a step, from whether it had been before (R37 item 7). A
session is an unbroken stay in `RX`; the flag is set by a byte that arrives with the cursor at 128 (R196), and clearing it
(R210) does not undo that it was set. -/
def overflowSeen (seen : Bool) (s t : State) : Bool :=
  decide (s.slave.state = .rx) && decide (t.slave.state = .rx) &&
    (seen || (decide (s.slave.rxCursor.val = Config.link.bufCap) && decide (t.slave.rxCount ≠ s.slave.rxCount)))

/-- R37 item 7: as long as `RX_OVERFLOW` has not been set in the session (`seen`), the cursor is the received-byte counter. -/
def CursorInv (seen : Bool) (s : State) : Prop :=
  s.slave.inited = true → seen = false → s.slave.rxCursor.val = s.slave.rxCount.toNat

/-- Operations run one after the other, stopping at the first fault or refusal. -/
def execAll (ops : List Instr) (s : State) : Host.Outcome State Fault Refusal :=
  match ops with
  | [] => .next s
  | i :: rest =>
    match exec i s with
    | .next t => execAll rest t
    | .fault r => .fault r
    | .refused r => .refused r

end Sys2Proof.Machine
end

