-- ==== Sys2Proof/Certificates/Slice0/Obligations.lean ====
section
/-! DEFINITION. The statements about the model, each a `Prop` to be settled. In a statement `{ s with … }` gives the whole next
state, so what it does not name is unchanged; where a buffer is written, the statement says what each of its bytes reads as. -/

open Sys2Proof Sys2Proof.Machine

/-! ## Parameters, encoding and decoding -/

/-- R8, with the ranges and the distinctness that R7 gives the open command values. -/
def Obligations.ParametersSatisfyTheirConstraints : Prop := Config.link.Valid

/-- R100, R104, R109: the encoding of a well-formed frame decodes to its table row, and to the frame itself once the open
values are given. `refineNamed i = i` leaves out only a class row that carries a named command. -/
def Obligations.EncodedFramesDecode : Prop :=
  ∀ (i : Instr) (bytes : List Byte), i.WellFormed = true → encode i = some bytes →
    decode bytes = .ok (tableRow i) ∧ (refineNamed i = i → decodeNamed bytes = .ok i)

/-- R78, R114: what decodes is re-encoded to the leading bytes it was read from, up to offset `1 + LENGTH` or to the end of
what was supplied; no bit of them is dropped. -/
def Obligations.DecodedFramesReencode : Prop :=
  ∀ (bytes : List Byte) (i : Instr), decode bytes = .ok i →
    encode i = some (bytes.take (max 3 (2 + (bytes.getD 1 0).toNat))) ∧ tableRow i = i

/-- R100, R104, R106: words written out from the encoding, SYNC in bits 23:16, LENGTH in 15:8, COMMAND in 7:0. The table numbers
no bit above the header: where the payload of the 40-bit word stands is the model's choice (DEDUCED, log entry 14). -/
def Obligations.TableWordsDecodeToTheirRows : Prop :=
  decodeTableWord 24 0x5A017E = some (.test 1 []) ∧ decodeTableWord 24 0x5A017F = some (.testResponse 1 []) ∧
  decodeTableWord 24 0x5A017D = some (.board 1 0x7D []) ∧ decodeTableWord 24 0x5A0180 = some (.app 1 0x80 []) ∧
  decodeTableWord 40 0x01045A0383 = some (.app 3 0x83 [0x04, 0x01]) ∧ decodeTableWord 24 0x5B017E = none

/-- R109: SYNC and COMMAND alone choose the row, whatever LENGTH and payload are, and the named rows change nothing in what
an initialised slave does. -/
def Obligations.HeaderDecodesByCommandAlone : Prop :=
  (∀ (sync len command : Byte) (rest : List Byte),
    decode (sync :: len :: command :: rest) =
      if sync ≠ 0x5A then .error .badSync
      else if command = 0x7E then .ok (.test len (rest.take (len.toNat - 1)))
      else if command = 0x7F then .ok (.testResponse len (rest.take (len.toNat - 1)))
      else if command.getLsbD 7 = false then .ok (.board len command (rest.take (len.toNat - 1)))
      else .ok (.app len command (rest.take (len.toNat - 1)))) ∧
  ∀ (i : Instr) (s : State), s.slave.inited = true → exec (refineNamed i) s = exec i s

/-! ## The parser -/

/-- R131: `F.ENCODE` succeeds exactly for payloads of at most 125 bytes; it touches no state of the link (R130). -/
def Obligations.EncodeOperationResult : Prop :=
  ∀ (command : Byte) (payload : List Byte) (s : State),
    exec (.fEncode command payload) s = .next { s with env := { s.env with
      parserRet := some (if payload.length ≤ 125 then
          .encoded ([0x5A, BitVec.ofNat 8 (1 + payload.length), command] ++ payload)
        else .encodeError) } }

/-- R140 to R142: the result of `F.VALIDATE`, by the offsets of the bytes given, SYNC before everything else. -/
def Obligations.ValidateOperationResult : Prop :=
  ∀ (bytes : List Byte) (s : State),
    exec (.fValidate bytes) s = .next { s with env := { s.env with
      parserRet := some (
        if bytes.length = 0 ∨ bytes.getD 0 0 ≠ 0x5A then .formatError .badSync
        else if bytes.length < 2 then .formatError .truncated
        else if (bytes.getD 1 0).toNat < 1 ∨ 254 < (bytes.getD 1 0).toNat then .formatError .truncated
        else if bytes.length < 2 + (bytes.getD 1 0).toNat then .formatError .truncated
        else .frame { length := (bytes.getD 1 0).toNat, command := bytes.getD 2 0,
                      payload := (bytes.take (2 + (bytes.getD 1 0).toNat)).drop 3 }) } }

/-- R145: the round trip of the two parser functions. -/
def Obligations.ValidateInvertsEncode : Prop :=
  ∀ (command : Byte) (payload : List Byte), payload.length ≤ 125 →
    ∃ bytes, encodeFrame command payload = some bytes ∧
      validateFrame bytes = .ok { length := 1 + payload.length, command := command, payload := payload }

/-- R146, R103: the lengths of a validated frame, and the leading bytes it was built from. -/
def Obligations.ValidatedFrameLengths : Prop :=
  ∀ (bytes : List Byte) (f : Frame), validateFrame bytes = .ok f →
    f.length = 1 + f.payload.length ∧ 1 ≤ f.length ∧ f.length ≤ 254 ∧ 2 + f.length ≤ bytes.length ∧
    bytes.take (2 + f.length) = [0x5A, BitVec.ofNat 8 f.length, f.command] ++ f.payload

/-- R147: re-encoding a validated frame that fits a buffer gives back the bytes it stood in. -/
def Obligations.ReencodeGivesThePrefix : Prop :=
  ∀ (bytes : List Byte) (f : Frame), validateFrame bytes = .ok f → f.length ≤ 126 →
    encodeFrame f.command f.payload = some (bytes.take (2 + f.length))

/-! ## The frame rows and the dispatcher -/

/-- R275, R206: a `TEST` frame makes the canned answer the pending message; if one is pending that is recorded as
`TX_REJECT`; in `ERROR` nothing happens. -/
def Obligations.TestFrameQueuesTheAnswer : Prop :=
  ∀ (len : Byte) (payload : List Byte) (s : State), s.slave.inited = true → lengthFits len payload = true →
    len.toNat ≤ 126 → s.slave.txBuf.wf →
    ∃ m : Memory, exec (.test len payload) s = .next (
        if s.slave.state = .error then s
        else if s.slave.txPending = true then { s with slave := { s.slave with diag := s.slave.diag ||| 0x10 } }
        else { s with slave := { s.slave with txBuf := m, txLen := 3, txPending := true } }) ∧
      ∀ a, Memory.read m a = if a < 3 then ([0x5A, 0x01, 0x7F] : List Byte).getD a 0 else Memory.read s.slave.txBuf a

/-- R274, R276: every board frame but `TEST`, named or not, is one output event, and no state of the link changes. -/
def Obligations.BoardFramesEmitTheirCommand : Prop :=
  ∀ (len command : Byte) (payload : List Byte) (s : State), s.slave.inited = true → lengthFits len payload = true →
    len.toNat ≤ 126 → isBoardCommand command = true →
    let emitted (c : Byte) : Host.Outcome State Fault Refusal :=
      .next { s with env := { s.env with emitted := s.env.emitted ++ [{ command := c, payload := payload }] } }
    exec (.board len command payload) s = emitted command ∧ exec (.testResponse len payload) s = emitted 0x7F ∧
    exec (.led len payload) s = emitted Config.link.cmdLed ∧
    exec (.lcdMessage len payload) s = emitted Config.link.cmdLcdMessage ∧
    exec (.debugLog len payload) s = emitted Config.link.cmdDebugLog ∧
    exec (.buzzer len payload) s = emitted Config.link.cmdBuzzer

/-- R273, R277: every application frame, named or not, is stored in the mailbox as `[COMMAND] ++ PAYLOAD`. -/
def Obligations.ApplicationFramesFillTheMailbox : Prop :=
  ∀ (len command : Byte) (payload : List Byte) (s : State), s.slave.inited = true → lengthFits len payload = true →
    len.toNat ≤ 126 → isAppCommand command = true → s.mailbox.buf.wf →
    ∃ (m : Byte → Memory) (k : Fin 127), k.val = len.toNat ∧
      (∀ c a, Memory.read (m c) a = if a < len.toNat then (c :: payload).getD a 0 else Memory.read s.mailbox.buf a) ∧
      let posted (c : Byte) : Host.Outcome State Fault Refusal :=
        .next { s with mailbox := { buf := m c, len := k, new := true } }
      exec (.app len command payload) s = posted command ∧
      exec (.syncCheck len payload) s = posted Config.link.cmdSyncCheck ∧
      exec (.reset len payload) s = posted Config.link.cmdReset ∧
      exec (.gameRequest len payload) s = posted Config.link.cmdGameRequest ∧
      exec (.gameMove len payload) s = posted Config.link.cmdGameMove ∧
      exec (.ack len payload) s = posted Config.link.cmdAck ∧ exec (.nack len payload) s = posted Config.link.cmdNack

/-- R102, R112, R191: a frame whose LENGTH is invalid, or of which a 128-byte buffer holds fewer than `2 + LENGTH` bytes, sets
`FORMAT_ERROR` and does nothing else. -/
def Obligations.MalformedFramesAreDiscarded : Prop :=
  ∀ (i : Instr) (bytes : List Byte) (s : State), encode i = some bytes → s.slave.inited = true →
    (bytes.getD 1 0 = 0 ∨ bytes.getD 1 0 = 255 ∨ min bytes.length 128 < 2 + (bytes.getD 1 0).toNat) →
    exec i s = .next { s with slave := { s.slave with diag := s.slave.diag ||| 0x08 } }

/-- R190, R271: a frame row that a buffer holds whole does exactly what `D.DISPATCH` does with the validated frame. -/
def Obligations.FrameRowsAreDispatches : Prop :=
  ∀ (i : Instr) (bytes : List Byte) (f : Frame) (s : State), s.slave.inited = true → encode i = some bytes →
    bytes.length ≤ 128 → validateFrame bytes = .ok f → exec i s = exec (.dDispatch f) s

/-- R270, R272: the three routes of `D.DISPATCH` for a frame out of a 128-byte buffer. The self-test route is `S.QUEUE` of
the answer, with its result discarded (R206). -/
def Obligations.DispatchRoutesByCommand : Prop :=
  ∀ (f : Frame) (s : State), s.slave.inited = true → f.WellFormed = true → f.length ≤ 126 → s.mailbox.buf.wf →
    (0x80 ≤ f.command → ∃ (m : Memory) (k : Fin 127),
      exec (.dDispatch f) s = .next { s with mailbox := { buf := m, len := k, new := true } } ∧ k.val = f.length ∧
      ∀ a, Memory.read m a = if a < f.length then (f.command :: f.payload).getD a 0 else Memory.read s.mailbox.buf a) ∧
    (f.command = 0x7E → ∃ t, exec (.sQueue 0x7F []) s = .next t ∧ exec (.dDispatch f) s = .next { t with env := s.env }) ∧
    (f.command < 0x80 → f.command ≠ 0x7E → exec (.dDispatch f) s = .next { s with env := { s.env with
      emitted := s.env.emitted ++ [{ command := f.command, payload := f.payload }] } })

/-- R130, R15, R33: an operand that is no frame has no dispatch, and an application frame longer than the mailbox, which no
buffer can supply, has no cells. The stop is the model's (log entry 7). -/
def Obligations.DispatchOutsideItsOperands : Prop :=
  ∀ (f : Frame) (s : State), s.slave.inited = true →
    (f.WellFormed = false → exec (.dDispatch f) s = .refused .illFormedFrame) ∧
    (f.WellFormed = true → 0x80 ≤ f.command → 126 < f.length → exec (.dDispatch f) s = .fault (.outOfBounds .mbox))

/-! ## The slave -/

/-- R180: `S.INIT`, the reset of the slave side, from any state. -/
def Obligations.SlaveInitSetsResetValues : Prop :=
  ∀ (ok : Bool) (s : State), exec (.sInit ok) s = .next { s with
    slave := { inited := true, state := if ok = true then .idle else .error, srdy := false, mrdy := false,
               csAck := false, txPending := false, rxBuf := s.slave.rxBuf, rxCursor := 0, rxCount := 0,
               txBuf := s.slave.txBuf, txLen := 0, txCount := 0, tStart := 0, now := s.slave.now, diag := 0 }
    mailbox := { buf := s.mailbox.buf, len := 0, new := false } }

/-- R35, R350: the two initialisations, in either order, take the machine before reset to the machine after it. What the
counters and the buffers hold there is the model's choice (log entries 1 to 3). -/
def Obligations.InitialisationsGiveTheResetState : Prop :=
  execAll [.sInit true, .mInit] State.powerOn = .next State.reset ∧
  execAll [.mInit, .sInit true] State.powerOn = .next State.reset

/-- R182, R183: `S.TICK` advances the counter and runs the poll of the state it finds, which sees the new value. -/
def Obligations.TickAdvancesThenPolls : Prop :=
  ∀ s : State, s.slave.inited = true →
    let s₁ : State := { s with slave := { s.slave with now := s.slave.now + 1 } }
    (∃ t, exec .sTick s = .next t) ∧
    exec .sTick s = match s.slave.state with
      | .idle => exec .sPollIdle s₁
      | .rx => exec .sPollRx s₁
      | .tx => exec .sPollTx s₁
      | .error => exec .sPollError s₁

/-- R185, R186, R187: the three outcomes of a poll in `IDLE`. -/
def Obligations.IdlePollOpensOrAnnounces : Prop :=
  ∀ s : State, s.slave.inited = true → s.slave.state = .idle →
    exec .sPollIdle s = .next (
      if csLine s = true then { s with slave := { s.slave with
        tStart := s.slave.now, csAck := true, srdy := true, state := if s.slave.mrdy = true then .tx else .rx } }
      else if s.slave.txPending = true ∧ s.slave.mrdy = false then { s with slave := { s.slave with mrdy := true } }
      else s)

/-- R190, R191: the completing poll validates what is held of the session, dispatches the frame or sets `FORMAT_ERROR`, and
then ends the session, whatever the elapsed time. -/
def Obligations.RxPollCompletesSession : Prop :=
  ∀ s : State, s.slave.inited = true → s.slave.state = .rx → csLine s = false →
    let held := (List.range (min s.slave.rxCount.toNat 128)).map (Memory.read s.slave.rxBuf)
    let ended (t : State) : State := { t with slave := { t.slave with
      rxCount := 0, rxCursor := 0, srdy := false, csAck := false, state := .idle } }
    match validateFrame held with
    | .ok f => ∃ t, exec (.dDispatch f) s = .next t ∧ exec .sPollRx s = .next (ended t)
    | .error _ => exec .sPollRx s = .next (ended { s with slave := { s.slave with diag := s.slave.diag ||| 0x08 } })

/-- R189, R192: a poll in `RX` with chip-select still asserted times the session out at its bound and else does nothing. -/
def Obligations.RxPollWithChipSelectAsserted : Prop :=
  ∀ s : State, s.slave.inited = true → s.slave.state = .rx → csLine s = true →
    exec .sPollRx s = .next (
      if 1000 ≤ (s.slave.now - s.slave.tStart).toNat then { s with slave := { s.slave with
        diag := s.slave.diag ||| 0x02, srdy := false, csAck := false, rxCount := 0, rxCursor := 0, state := .idle } }
      else s)

/-- R193, R194: completion, then timeout, then nothing; both ends of the session release the message. -/
def Obligations.TxPollOutcomes : Prop :=
  ∀ s : State, s.slave.inited = true → s.slave.state = .tx →
    let ended (d : BitVec 8) : State := { s with slave := { s.slave with
      diag := d, srdy := false, mrdy := false, csAck := false, txCount := 0, txPending := false, txLen := 0,
      state := .idle } }
    exec .sPollTx s = .next (
      if csLine s = false then ended s.slave.diag
      else if 1000 ≤ (s.slave.now - s.slave.tStart).toNat then ended (s.slave.diag ||| 0x04)
      else s)

/-- R198, R199: in `ERROR` the poll does nothing; a byte clocked in `IDLE` or `ERROR` is lost and a free byte comes back. -/
def Obligations.NothingHappensOutsideSessions : Prop :=
  ∀ (b : Byte) (s : State), s.slave.inited = true →
    (s.slave.state = .error → exec .sPollError s = .next s) ∧
    (s.slave.state = .idle ∨ s.slave.state = .error →
      exec (.sByteOther b) s = .next { s with env := { s.env with
        slaveOut := Config.draw s.env.draws, draws := s.env.draws + 1 } })

/-- R196: one byte into the Receive Buffer, at the cursor after its lazy wrap; the byte that goes out is free. -/
def Obligations.ReceivedByteIsStored : Prop :=
  ∀ (b : Byte) (s : State), s.slave.inited = true → s.slave.state = .rx → s.slave.rxBuf.wf →
    ∃ (m : Memory) (c : Fin 129), exec (.sByteRx b) s = .next { s with
        slave := { s.slave with
          rxCount := s.slave.rxCount + 1, rxBuf := m, rxCursor := c, srdy := true,
          diag := if s.slave.rxCursor.val = 128 then s.slave.diag ||| 0x01 else s.slave.diag }
        env := { s.env with slaveOut := Config.draw s.env.draws, draws := s.env.draws + 1 } } ∧
      storeOffset s.slave.rxCursor = (if s.slave.rxCursor.val = 128 then 0 else s.slave.rxCursor.val) ∧
      c.val = storeOffset s.slave.rxCursor + 1 ∧
      ∀ a, Memory.read m a = if a = storeOffset s.slave.rxCursor then b else Memory.read s.slave.rxBuf a

/-- R197: the next byte of the pending frame goes out; past its end a free byte does. -/
def Obligations.TransmittedByteIsThePendingFrames : Prop :=
  ∀ (b : Byte) (s : State), s.slave.inited = true → s.slave.state = .tx →
    exec (.sByteTx b) s = .next { s with
      slave := { s.slave with txCount := s.slave.txCount + 1, srdy := true }
      env := if s.slave.txCount.toNat < s.slave.txLen.val then
          { s.env with slaveOut := Memory.read s.slave.txBuf s.slave.txCount.toNat }
        else { s.env with slaveOut := Config.draw s.env.draws, draws := s.env.draws + 1 } }

/-- R165, R195: the exchange is the slave's callback of its state; it completes whatever the slave does. Before `S.INIT` the
byte that comes back is free (log entry 8). -/
def Obligations.ExchangeRunsTheCallback : Prop :=
  ∀ (b : Byte) (s : State), s.master.inited = true → s.master.phase = .clock → s.master.cs = true →
    (∃ t, exec (.xfer b) s = .next t) ∧
    exec (.xfer b) s = if s.slave.inited = true then
        match s.slave.state with
        | .idle => exec (.sByteOther b) s
        | .rx => exec (.sByteRx b) s
        | .tx => exec (.sByteTx b) s
        | .error => exec (.sByteOther b) s
      else .next { s with env := { s.env with slaveOut := Config.draw s.env.draws, draws := s.env.draws + 1 } }

/-- R205: the four outcomes of `S.QUEUE`, in the order of its tests (R310). -/
def Obligations.QueueOperationOutcomes : Prop :=
  ∀ (command : Byte) (payload : List Byte) (s : State), s.slave.inited = true → s.slave.txBuf.wf →
    ∃ (m : Memory) (n : Fin 129), (payload.length ≤ 125 → n.val = 3 + payload.length ∧
        ∀ a, Memory.read m a = if a < 3 + payload.length then
            ([0x5A, BitVec.ofNat 8 (1 + payload.length), command] ++ payload).getD a 0
          else Memory.read s.slave.txBuf a) ∧
      exec (.sQueue command payload) s = .next (
        if s.slave.state = .error then { s with env := { s.env with appRet := some .queueRejected } }
        else if 125 < payload.length then { s with env := { s.env with appRet := some .queueEncodeError } }
        else if s.slave.txPending = true then { s with
          slave := { s.slave with diag := s.slave.diag ||| 0x10 }, env := { s.env with appRet := some .queueRejected } }
        else { s with
          slave := { s.slave with txBuf := m, txLen := n, txPending := true }
          env := { s.env with appRet := some .queueOk } })

/-- R210: `S.CLRDIAG` clears the masked flags and nothing else. -/
def Obligations.ClearDiagClearsMaskedFlags : Prop :=
  ∀ (mask : BitVec 5) (s : State), s.slave.inited = true →
    ∃ d : BitVec 8, exec (.sClrdiag mask) s = .next { s with slave := { s.slave with diag := d } } ∧
      ∀ k, d.getLsbD k = (s.slave.diag.getLsbD k && !mask.getLsbD k)

/-! ## The master -/

/-- R230, R231: `M.INIT`, the reset of the master side, from any state, and `M.TICK` in every phase. -/
def Obligations.MasterInitAndTick : Prop :=
  ∀ s : State,
    exec .mInit s = .next { s with master := {
      inited := true, phase := .idle, op := .send, cs := false, tx := [], n := 0, rx := s.master.rx, cap := 0,
      idx := 0, expected := 0, tStart := 0, now := s.master.now } } ∧
    (s.master.inited = true → exec .mTick s = .next { s with master := { s.master with now := s.master.now + 1 } })

/-- R235, R245: the start events of the two operations. -/
def Obligations.OperationsStartByAssertingChipSelect : Prop :=
  ∀ (bytes : List Byte) (cap : Nat) (s : State), s.master.inited = true → s.master.phase = .idle →
    exec (.mSend bytes) s = .next { s with master := { s.master with
      op := .send, tx := bytes, n := bytes.length, idx := 0, cs := true, tStart := s.master.now, phase := .wait } } ∧
    exec (.mRecv cap) s = .next { s with master := { s.master with
      op := .recv, cap := cap, idx := 0, expected := 2, cs := true, tStart := s.master.now, phase := .wait } }

/-- R236 to R239, R246: readiness first, with the busy check of `send` alone; then the bound; else nothing. -/
def Obligations.WaitOutcomes : Prop :=
  ∀ s : State, s.master.inited = true → s.master.phase = .wait →
    exec .mWait s = .next (
      if srdyLine s = true then
        if s.master.op = .send ∧ mrdyLine s = true then { s with
          master := { s.master with phase := .idle }, env := { s.env with masterRet := some .errBusy } }
        else { s with master := { s.master with phase := .clock } }
      else if 100 ≤ (s.master.now - s.master.tStart).toNat then { s with
        master := { s.master with cs := false, phase := .idle }, env := { s.env with masterRet := some .errTimeout } }
      else s)

/-- R240, R241: `M.CLOCK` of `send` exchanges the next byte, or goes on to settle when all were clocked. -/
def Obligations.SendClocksOneByte : Prop :=
  ∀ s : State, s.master.inited = true → s.master.phase = .clock → s.master.op = .send → s.master.cs = true →
    s.master.n = s.master.tx.length →
    (s.master.idx < s.master.n → ∃ t, exec (.xfer (s.master.tx.getD s.master.idx 0)) s = .next t ∧
      exec .mClockSend s = .next { t with master := { s.master with idx := s.master.idx + 1 } }) ∧
    (s.master.idx = s.master.n → exec .mClockSend s = .next { s with master := { s.master with phase := .settle } })

/-- R248, R249: `M.CLOCK` of `receive` exchanges the dummy, captures the byte that comes back, learns the length at offset 1,
and goes on to settle at the bound. -/
def Obligations.ReceiveClocksOneByte : Prop :=
  ∀ s : State, s.master.inited = true → s.master.phase = .clock → s.master.op = .recv → s.master.cs = true →
    s.master.rx.wf →
    (s.master.idx < min s.master.expected s.master.cap → ∃ (t : State) (m : Memory), exec (.xfer 0x00) s = .next t ∧
      exec .mClockRecv s = .next { t with master := { s.master with
        rx := m, idx := s.master.idx + 1,
        expected := if s.master.idx = 1 then s.master.expected + t.env.slaveOut.toNat else s.master.expected } } ∧
      ∀ a, Memory.read m a = if a = s.master.idx then t.env.slaveOut else Memory.read s.master.rx a) ∧
    (min s.master.expected s.master.cap ≤ s.master.idx →
      exec .mClockRecv s = .next { s with master := { s.master with phase := .settle } })

/-- R242, R254: `M.SETTLE` and `M.RELEASE` deassert chip-select; the first returns the operation's result. -/
def Obligations.SettleAndReleaseDeassertChipSelect : Prop :=
  ∀ s : State, s.master.inited = true →
    (s.master.phase = .settle → exec .mSettle s = .next { s with
      master := { s.master with cs := false, phase := .idle }
      env := { s.env with masterRet := some (if s.master.op = .send then .sendOk else .recvOk s.master.idx) } }) ∧
    (s.master.phase = .idle → exec .mRelease s = .next { s with master := { s.master with cs := false } })

/-! ## The mailbox -/

/-- R280, R281: `D.CHECK` changes nothing of the link; `D.GET` copies the message out and clears the flag. -/
def Obligations.MailboxOperations : Prop :=
  ∀ s : State, s.slave.inited = true →
    exec .dCheck s = .next { s with env := { s.env with
      appRet := some (.checked (if s.mailbox.new = true then some (Memory.read s.mailbox.buf 0) else none)) } } ∧
    exec .dGet s = .next { s with
      mailbox := { s.mailbox with new := false }
      env := { s.env with appRet := some (.got (if s.mailbox.new = true then
        (List.range s.mailbox.len.val).map (Memory.read s.mailbox.buf) else [])) } }

/-- R282: after an application frame is dispatched `D.CHECK` gives its command, `D.GET` the whole message, once. -/
def Obligations.MailboxHandsOverOnce : Prop :=
  ∀ (f : Frame) (s : State), s.slave.inited = true → f.WellFormed = true → f.length ≤ 126 → 0x80 ≤ f.command →
    s.mailbox.buf.wf →
    ∃ t₁ t₂ t₃ t₄ t₅ : State, exec (.dDispatch f) s = .next t₁ ∧ exec .dCheck t₁ = .next t₂ ∧ exec .dGet t₂ = .next t₃ ∧
      exec .dCheck t₃ = .next t₄ ∧ exec .dGet t₄ = .next t₅ ∧
      t₂.env.appRet = some (.checked (some f.command)) ∧ t₃.env.appRet = some (.got (f.command :: f.payload)) ∧
      t₄.env.appRet = some (.checked none) ∧ t₅.env.appRet = some (.got [])

/-! ## Enabling, time and the register view -/

/-- R10, R181, R183, R195, R230, R232: what is not enabled is refused by name (that it is refused rather than absent is the
model's form, log entry 9). Each side, whatever the other does: nothing of it before its own initialisation. Each phase: no new
operation and no release outside `M_IDLE`, no micro-step outside its own phase and operation. Each poll and callback: only in its
own link state. -/
def Obligations.DisabledOperationsAreRefused : Prop :=
  (∀ (i : Instr) (s : State), enabled i s = false → ∃ name, exec i s = .refused (.notEnabled name)) ∧
  (∀ (i : Instr) (s : State), s.slave.inited = false → s.master.inited = false → enabled i s = true →
    (∃ ok, i = .sInit ok) ∨ i = .mInit ∨ (∃ c p, i = .fEncode c p) ∨ ∃ bytes, i = .fValidate bytes) ∧
  ∀ (s : State) (len c b : Byte) (p bytes : List Byte) (mask : BitVec 5) (cap : Nat) (f : Frame),
    (s.slave.inited = false →
      exec (.test len p) s = .refused (.notEnabled "TEST") ∧
      exec (.testResponse len p) s = .refused (.notEnabled "TEST_RESPONSE") ∧
      exec (.board len c p) s = .refused (.notEnabled "BOARD") ∧ exec (.app len c p) s = .refused (.notEnabled "APP") ∧
      exec (.led len p) s = .refused (.notEnabled "LED") ∧
      exec (.lcdMessage len p) s = .refused (.notEnabled "LCD_MESSAGE") ∧
      exec (.debugLog len p) s = .refused (.notEnabled "DEBUG_LOG") ∧
      exec (.buzzer len p) s = .refused (.notEnabled "BUZZER") ∧
      exec (.syncCheck len p) s = .refused (.notEnabled "SYNC_CHECK") ∧
      exec (.reset len p) s = .refused (.notEnabled "RESET") ∧
      exec (.gameRequest len p) s = .refused (.notEnabled "GAME_REQUEST") ∧
      exec (.gameMove len p) s = .refused (.notEnabled "GAME_MOVE") ∧
      exec (.ack len p) s = .refused (.notEnabled "ACK") ∧ exec (.nack len p) s = .refused (.notEnabled "NACK") ∧
      exec .sTick s = .refused (.notEnabled "S.TICK") ∧
      exec (.sQueue c p) s = .refused (.notEnabled "S.QUEUE") ∧
      exec (.sClrdiag mask) s = .refused (.notEnabled "S.CLRDIAG") ∧
      exec (.dDispatch f) s = .refused (.notEnabled "D.DISPATCH") ∧
      exec .dCheck s = .refused (.notEnabled "D.CHECK") ∧ exec .dGet s = .refused (.notEnabled "D.GET")) ∧
    (s.slave.inited = false ∨ s.slave.state ≠ .idle → exec .sPollIdle s = .refused (.notEnabled "S.POLL.IDLE")) ∧
    (s.slave.inited = false ∨ s.slave.state ≠ .rx → exec .sPollRx s = .refused (.notEnabled "S.POLL.RX") ∧
      exec (.sByteRx b) s = .refused (.notEnabled "S.BYTE.RX")) ∧
    (s.slave.inited = false ∨ s.slave.state ≠ .tx → exec .sPollTx s = .refused (.notEnabled "S.POLL.TX") ∧
      exec (.sByteTx b) s = .refused (.notEnabled "S.BYTE.TX")) ∧
    (s.slave.inited = false ∨ s.slave.state ≠ .error → exec .sPollError s = .refused (.notEnabled "S.POLL.ERROR")) ∧
    (s.slave.inited = false ∨ s.slave.state = .rx ∨ s.slave.state = .tx →
      exec (.sByteOther b) s = .refused (.notEnabled "S.BYTE.OTHER")) ∧
    (s.master.inited = false → exec .mTick s = .refused (.notEnabled "M.TICK")) ∧
    (s.master.inited = false ∨ s.master.phase ≠ .idle → exec (.mSend bytes) s = .refused (.notEnabled "M.SEND") ∧
      exec (.mRecv cap) s = .refused (.notEnabled "M.RECV") ∧ exec .mRelease s = .refused (.notEnabled "M.RELEASE")) ∧
    (s.master.inited = false ∨ s.master.phase ≠ .wait → exec .mWait s = .refused (.notEnabled "M.WAIT")) ∧
    (s.master.inited = false ∨ s.master.phase ≠ .clock ∨ s.master.op ≠ .send →
      exec .mClockSend s = .refused (.notEnabled "M.CLOCK.SEND")) ∧
    (s.master.inited = false ∨ s.master.phase ≠ .clock ∨ s.master.op ≠ .recv →
      exec .mClockRecv s = .refused (.notEnabled "M.CLOCK.RECV")) ∧
    (s.master.inited = false ∨ s.master.phase ≠ .clock ∨ s.master.cs = false →
      exec (.xfer b) s = .refused (.notEnabled "XFER")) ∧
    (s.master.inited = false ∨ s.master.phase ≠ .settle → exec .mSettle s = .refused (.notEnabled "M.SETTLE"))

/-- R323, R287: elapsed time by modular subtraction, right across a wrap of the counter. -/
def Obligations.ElapsedTimeIsModular : Prop :=
  (∀ (start : Word32) (elapsed dur : Nat), elapsed < 2 ^ 32 →
    isTimeUp (start + BitVec.ofNat 32 elapsed) start dur = decide (dur ≤ elapsed)) ∧
  isTimeUp 0x000002E8 0xFFFFFF00 1000 = true ∧ isTimeUp 0x000002E8 0xFFFFFF00 1001 = false

/-- R32, R253: the thirteen registers, written out from the table: what each bit of each register holds, every other bit 0; that
the model's places and values of the fields are those of its registers; what each side may read; and the level of MRDY that the
master's caller sees. That the bits of S_LINES, M_STATUS and M_LINES which R32 does not mention read 0, and that an entry 'n/a' is
no access, is the model's inference (DEDUCED, log entry 17). -/
def Obligations.RegisterViewHoldsItsFields : Prop :=
  (∀ s : State,
    (readRegister .sStatus s).toNat =
      (match s.slave.state with | .idle => 0 | .rx => 1 | .tx => 2 | .error => 3) +
        4 * s.slave.csAck.toNat + 8 * s.slave.txPending.toNat + 16 * s.mailbox.new.toNat ∧
    (readRegister .sLines s).toNat =
      s.slave.srdy.toNat + 2 * s.slave.mrdy.toNat + 4 * (s.master.inited && s.master.cs).toNat ∧
    (readRegister .sDiag s).toNat = s.slave.diag.toNat % 32 ∧
    readRegister .sRxcnt s = s.slave.rxCount ∧ (readRegister .sRxcur s).toNat = s.slave.rxCursor.val ∧
    readRegister .sTxcnt s = s.slave.txCount ∧ (readRegister .sTxlen s).toNat = s.slave.txLen.val ∧
    readRegister .sTstart s = s.slave.tStart ∧ readRegister .sNow s = s.slave.now ∧
    (readRegister .mbLen s).toNat = s.mailbox.len.val ∧
    (readRegister .mStatus s).toNat =
      (match s.master.phase with | .idle => 0 | .wait => 1 | .clock => 2 | .settle => 3) +
        4 * (match s.master.op with | .send => 0 | .recv => 1) ∧
    (readRegister .mLines s).toNat =
      s.master.cs.toNat + 2 * (s.slave.inited && s.slave.srdy).toNat + 4 * (s.slave.inited && s.slave.mrdy).toNat ∧
    readRegister .mNow s = s.master.now ∧
    (∀ f : RegisterField, (readRegister (fieldPlace f).1 s).toNat / 2 ^ (fieldPlace f).2.1 % 2 ^ (fieldPlace f).2.2 =
      fieldValue f s) ∧
    peerHasData s = (s.slave.inited && s.slave.mrdy)) ∧
  ∀ f : RegisterField,
    (mayRead .slaveApplication f = true ↔
      f ∈ [.state, .csAck, .txPending, .mbNew, .srdy, .mrdy, .csIn, .diagFlags, .rxCount, .rxCursor, .txCount, .txLen,
        .tStart, .slaveNow, .mailboxLen, .cs]) ∧
    (mayRead .masterCaller f = true ↔ f ∈ [.srdy, .mrdy, .phase, .op, .cs, .srdyIn, .mrdyIn, .masterNow])

/-! ## The step -/

/-- R10, R75, R230 to R232: a step runs the environment's next choice `i` whole, by itself, when `i` is one of the events of R10
under its condition; any other choice is used up and nothing else changes. The choice is the script's first, or, where the script
is empty, the free one. That choices stand in the state is the model's form (log entries 4, 9 and 15), and so is that both
initialisations are enabled at any time (log entry 16). -/
def Obligations.StepRunsTheNextEvent : Prop :=
  ∀ (i : Instr) (s s₁ : State),
    (∃ rest, s.env.script = i :: rest ∧ s₁ = { s with env := { s.env with script := rest } }) ∨
      (s.env.script = [] ∧ i = Config.freeEvent s.env.picks ∧
        s₁ = { s with env := { s.env with picks := s.env.picks + 1 } }) →
    let runs : Prop :=
      (∃ ok, i = .sInit ok) ∨ i = .mInit ∨
      (s.slave.inited = true ∧
        (i = .sTick ∨ (∃ c p, i = .sQueue c p) ∨ (∃ mask, i = .sClrdiag mask) ∨ i = .dCheck ∨ i = .dGet)) ∨
      (s.master.inited = true ∧
        (i = .mTick ∨
          (s.master.phase = .idle ∧ ((∃ bytes, i = .mSend bytes) ∨ (∃ cap, i = .mRecv cap) ∨ i = .mRelease)) ∨
          (s.master.phase = .wait ∧ i = .mWait) ∨
          (s.master.phase = .clock ∧ s.master.op = .send ∧ i = .mClockSend) ∨
          (s.master.phase = .clock ∧ s.master.op = .recv ∧ i = .mClockRecv) ∨
          (s.master.phase = .settle ∧ i = .mSettle)))
    (runs → step s = exec i s₁) ∧ (¬ runs → step s = .next s₁)

/-- R87, R190: when the bytes held of a finished session decode to a frame, the slave's tick runs that frame; around it
the step advances the counter before and ends the session after. -/
def Obligations.StepRunsTheDecodedFrame : Prop :=
  ∀ (i : Instr) (rest : List Instr) (s : State), s.slave.inited = true → s.slave.state = .rx → csLine s = false →
    s.env.script = .sTick :: rest → decode (heldBytes s) = .ok i →
    ∃ t, exec i { s with slave := { s.slave with now := s.slave.now + 1 }, env := { s.env with script := rest } } = .next t ∧
      step s = .next { t with slave := { t.slave with
        rxCount := 0, rxCursor := 0, srdy := false, csAck := false, state := .idle } }

/-- The link's invariant holds after reset (R35, R37), item 7 with no overflow seen. -/
def Obligations.LinkInvAtReset : Prop := LinkInv State.reset ∧ CursorInv false State.reset

/-- R37: every step keeps the link's invariant, and item 7 with it: the cursor is the counter until `RX_OVERFLOW` has been set in
the session; and the step by which it is seen to be set leaves the flag set (R31 bit 0). -/
def Obligations.StepKeepsLinkInv : Prop :=
  ∀ (seen : Bool) (s t : State), LinkInv s → CursorInv seen s → step s = .next t →
    LinkInv t ∧ CursorInv (overflowSeen seen s t) t ∧
    (seen = false → overflowSeen seen s t = true → t.slave.diag.getLsbD 0 = true)

/-- R292, R301: in a state that meets the invariant no step faults and none is refused. -/
def Obligations.StepNeverStops : Prop := ∀ s : State, LinkInv s → ∃ t, step s = .next t

/-- R37 items 1 to 7: what the invariant says of an initialised slave, in the words of the rule. Item 7 is told twice: with no
overflow in the session (`seen`), as the rule has it; and in `RX` after any history, for a count that is not 0, since a counter
that has wrapped is 0 with the cursor at 128 (R286). -/
def Obligations.InvariantGivesTheStateLaws : Prop :=
  ∀ (seen : Bool) (s : State), LinkInv s → CursorInv seen s → s.slave.inited = true →
    (s.slave.state = .idle → s.slave.srdy = false ∧ s.slave.csAck = false ∧ s.slave.rxCount = 0 ∧
      s.slave.rxCursor.val = 0 ∧ s.slave.txCount = 0) ∧
    (s.slave.csAck = true ↔ s.slave.state = .rx ∨ s.slave.state = .tx) ∧
    (s.slave.srdy = true ↔ s.slave.state = .rx ∨ s.slave.state = .tx) ∧
    (s.slave.state = .rx → s.slave.mrdy = false) ∧ (s.slave.state = .tx → s.slave.mrdy = true) ∧
    (s.slave.mrdy = true → s.slave.txPending = true ∧ 3 ≤ s.slave.txLen.val ∧ s.slave.txLen.val ≤ 128) ∧
    (s.slave.state = .error → s.slave.srdy = false ∧ s.slave.mrdy = false) ∧
    (∀ a, 128 ≤ a → Memory.read s.slave.rxBuf a = Memory.unlisted) ∧ storeOffset s.slave.rxCursor < 128 ∧
    (seen = false → s.slave.rxCount.toNat ≤ 128 ∧ s.slave.rxCursor.val = s.slave.rxCount.toNat) ∧
    (s.slave.state = .rx → 1 ≤ s.slave.rxCount.toNat → s.slave.rxCount.toNat ≤ 128 →
      s.slave.rxCursor.val = s.slave.rxCount.toNat)

/-- R250, R243: at the settle step of a state that meets the invariant, `receive` returns `min(2 + m.rx[1], cap)` bytes, or
`cap` where `cap < 2`, and a `send` that returns `Ok` has clocked all its bytes. -/
def Obligations.SettledOperationsAreWhole : Prop :=
  ∀ s : State, LinkInv s → s.master.inited = true → s.master.phase = .settle →
    ∃ t, exec .mSettle s = .next t ∧
      (s.master.op = .recv → t.env.masterRet = some (.recvOk (
        if 2 ≤ s.master.cap then min (2 + (Memory.read s.master.rx 1).toNat) s.master.cap else s.master.cap))) ∧
      (s.master.op = .send → t.env.masterRet = some .sendOk ∧ s.master.idx = s.master.tx.length)

/-- R21: only the slave's tick and its initialisation write the link state. -/
def Obligations.OnlyTickAndInitChangeLinkState : Prop :=
  ∀ s t : State, step s = .next t → t.slave.state ≠ s.slave.state →
    nextEvent s = .sTick ∨ ∃ ok, nextEvent s = .sInit ok

/-- R288: the slave's transition table, the state after each poll. -/
def Obligations.SlaveTransitionTable : Prop :=
  ∀ s : State, s.slave.inited = true →
    ∃ t, exec .sTick s = .next t ∧ t.slave.now = s.slave.now + 1 ∧
      t.slave.state = match s.slave.state with
        | .idle => if csLine s = true then (if s.slave.mrdy = true then .tx else .rx) else .idle
        | .rx => if csLine s = false ∨ 1000 ≤ (s.slave.now + 1 - s.slave.tStart).toNat then .idle else .rx
        | .tx => if csLine s = false ∨ 1000 ≤ (s.slave.now + 1 - s.slave.tStart).toNat then .idle else .tx
        | .error => .error

/-- R186, R156: MRDY rises only in a poll in `IDLE` with chip-select deasserted and a message pending, and falls only at the
end of a `TX` session or by `S.INIT`. -/
def Obligations.MrdyMovesOnlyAsAnnounced : Prop :=
  ∀ s t : State, LinkInv s → s.slave.inited = true → step s = .next t →
    (s.slave.mrdy = false → t.slave.mrdy = true → nextEvent s = .sTick ∧ s.slave.state = .idle ∧ csLine s = false ∧
      s.slave.txPending = true) ∧
    (s.slave.mrdy = true → t.slave.mrdy = false → (∃ ok, nextEvent s = .sInit ok) ∨
      (nextEvent s = .sTick ∧ s.slave.state = .tx ∧ t.slave.state = .idle))

/-- R31: a diagnostic flag that is set stays set unless `S.CLRDIAG` or `S.INIT` clears it. -/
def Obligations.DiagFlagsAreSticky : Prop :=
  ∀ (s t : State) (f : DiagFlag), step s = .next t → diagFlag s.slave.diag f = true → diagFlag t.slave.diag f = false →
    (∃ mask, nextEvent s = .sClrdiag mask) ∨ ∃ ok, nextEvent s = .sInit ok

/-- R320: who writes what. The slave's main loop writes no master state; the master's main loop writes no slave or mailbox
state but through the exchange; and the exchange leaves the link state, MRDY, `cs_ack`, the pending message and the mailbox. -/
def Obligations.ContextsWriteTheirOwnState : Prop :=
  ∀ (i : Instr) (s t : State), exec i s = .next t →
    (i ∈ [.mInit, .mTick, .mWait, .mSettle, .mRelease] ∨ (∃ b, i = .mSend b) ∨ (∃ c, i = .mRecv c) →
      t.slave = s.slave ∧ t.mailbox = s.mailbox) ∧
    (i ∈ [.sTick, .sPollIdle, .sPollRx, .sPollTx, .sPollError, .dCheck, .dGet] ∨ (∃ ok, i = .sInit ok) ∨
      (∃ c p, i = .sQueue c p) ∨ (∃ m, i = .sClrdiag m) ∨ (∃ f, i = .dDispatch f) ∨ (encode i).isSome = true →
      t.master = s.master) ∧
    (i ∈ [.mClockSend, .mClockRecv] ∨ (∃ b, i = .xfer b ∨ i = .sByteRx b ∨ i = .sByteTx b ∨ i = .sByteOther b) →
      t.slave.state = s.slave.state ∧ t.slave.mrdy = s.slave.mrdy ∧ t.slave.csAck = s.slave.csAck ∧
      t.slave.txPending = s.slave.txPending ∧ t.slave.txBuf = s.slave.txBuf ∧ t.slave.txLen = s.slave.txLen ∧
      t.slave.tStart = s.slave.tStart ∧ t.slave.now = s.slave.now ∧ t.mailbox = s.mailbox)

/-- R156: when the master sees SRDY asserted, the MRDY it sees is the direction of the open session. -/
def Obligations.DirectionAgreement : Prop :=
  ∀ s : State, LinkInv s → srdyLine s = true →
    (mrdyLine s = true ↔ s.slave.state = .tx) ∧ (mrdyLine s = false ↔ s.slave.state = .rx)

/-! ## Sessions -/

/-- R217, R196, R303: any number of bytes into a fresh `RX` session. The latest 128 are held, byte `k` at offset `k mod 128`;
`RX_OVERFLOW` is set exactly when more than 128 came; nothing outside the buffer is touched. -/
def Obligations.ReceivedBytesWrapInTheBuffer : Prop :=
  ∀ (bytes : List Byte) (s : State), s.slave.inited = true → s.slave.state = .rx → s.slave.rxCount = 0 →
    s.slave.rxCursor = 0 → s.slave.rxBuf.wf → Memory.within 128 s.slave.rxBuf →
    ∃ t, execAll (bytes.map .sByteRx) s = .next t ∧
      (∀ k, k < bytes.length → bytes.length ≤ k + 128 → Memory.read t.slave.rxBuf (k % 128) = bytes.getD k 0) ∧
      (∀ a, bytes.length ≤ a → Memory.read t.slave.rxBuf a = Memory.read s.slave.rxBuf a) ∧
      Memory.within 128 t.slave.rxBuf ∧
      t.slave.diag = (if 128 < bytes.length then s.slave.diag ||| 0x01 else s.slave.diag) ∧
      t.slave.state = .rx ∧ t.slave.txBuf = s.slave.txBuf ∧ t.mailbox = s.mailbox ∧ t.master = s.master

/-- R215, R216: chip-select asserted and held. The first tick opens a session, the 1001st ends it with both ready lines
deasserted, and the next opens a new one. -/
def Obligations.StuckChipSelectRecovers : Prop :=
  ∀ s : State, s.slave.inited = true → s.slave.state = .idle → csLine s = true →
    (∀ k, 1 ≤ k → k ≤ 1000 → ∃ t, execAll (List.replicate k .sTick) s = .next t ∧ t.slave.srdy = true ∧
      t.slave.state = if s.slave.mrdy = true then .tx else .rx) ∧
    (∃ t, execAll (List.replicate 1001 .sTick) s = .next t ∧ t.slave.state = .idle ∧ t.slave.srdy = false ∧
      t.slave.mrdy = false ∧ t.slave.csAck = false ∧
      t.slave.diag = s.slave.diag ||| (if s.slave.mrdy = true then 0x04 else 0x02)) ∧
    ∃ t, execAll (List.replicate 1002 .sTick) s = .next t ∧ t.slave.state = .rx ∧ t.slave.srdy = true

/-- R161, R257: a master-write session, event by event. A `send` of at most 128 bytes to an idle slave with nothing announced
returns `Ok`, and the slave then holds exactly those bytes, in order. -/
def Obligations.MasterWriteSessionCarriesTheBytes : Prop :=
  ∀ (bytes : List Byte) (s : State), LinkInv s → s.slave.inited = true → s.master.inited = true →
    s.slave.state = .idle → s.slave.mrdy = false → s.master.phase = .idle → bytes.length ≤ 128 →
    ∃ t, execAll ([.mSend bytes, .sTick, .mWait] ++ List.replicate (bytes.length + 1) .mClockSend ++ [.mSettle]) s = .next t ∧
      t.env.masterRet = some .sendOk ∧ t.master.cs = false ∧ t.master.phase = .idle ∧ t.slave.state = .rx ∧
      heldBytes t = bytes ∧ t.slave.diag = s.slave.diag ∧ t.slave.txPending = s.slave.txPending ∧
      t.mailbox = s.mailbox

/-- R162, R257: a master-read session, event by event. A `receive` of an announced message into a buffer that holds it returns
its length, and the captured bytes are the message, in order. -/
def Obligations.MasterReadSessionReturnsTheMessage : Prop :=
  ∀ (cap : Nat) (s : State), LinkInv s → s.slave.inited = true → s.master.inited = true → s.slave.state = .idle →
    s.slave.mrdy = true → s.master.phase = .idle → s.slave.txLen.val ≤ cap →
    ∃ t, execAll ([.mRecv cap, .sTick, .mWait] ++ List.replicate (s.slave.txLen.val + 1) .mClockRecv ++ [.mSettle]) s =
        .next t ∧
      t.env.masterRet = some (.recvOk s.slave.txLen.val) ∧ t.master.cs = false ∧ t.master.phase = .idle ∧
      (∀ k, k < s.slave.txLen.val → Memory.read t.master.rx k = Memory.read s.slave.txBuf k) ∧
      t.slave.state = .tx ∧ t.slave.diag = s.slave.diag

/-- R163, R238: a `send` against an announced message returns `Busy`, with no byte clocked and the link in the state the rule
gives. -/
def Obligations.BusyCollision : Prop :=
  ∀ (bytes : List Byte) (s : State), LinkInv s → s.slave.inited = true → s.master.inited = true →
    s.slave.state = .idle → s.slave.mrdy = true → s.master.phase = .idle →
    ∃ t, execAll [.mSend bytes, .sTick, .mWait] s = .next t ∧ t.env.masterRet = some .errBusy ∧ t.master.cs = true ∧
      t.master.phase = .idle ∧ t.master.idx = 0 ∧ t.slave.srdy = true ∧ t.slave.mrdy = true ∧ t.slave.state = .tx ∧
      t.slave.txCount = 0 ∧ t.slave.txPending = true ∧ t.slave.rxBuf = s.slave.rxBuf

/-- R237, R239: a wait that no slave answers changes nothing before 100 ms of the master's time, and then returns `Timeout`
with chip-select deasserted. -/
def Obligations.UnansweredWaitTimesOut : Prop :=
  ∀ s : State, s.master.inited = true → s.master.phase = .wait → s.master.now = s.master.tStart → srdyLine s = false →
    (∀ k, k < 100 → execAll (List.replicate k .mTick ++ [.mWait]) s =
      .next { s with master := { s.master with now := s.master.now + BitVec.ofNat 32 k } }) ∧
    execAll (List.replicate 100 .mTick ++ [.mWait]) s = .next { s with
      master := { s.master with now := s.master.now + 100, cs := false, phase := .idle }
      env := { s.env with masterRet := some .errTimeout } }
end

