-- ==== Sys2Proof/Laws/Config.lean ====
section
/-! SUPPORT. What the open parameters are known to satisfy: their range and that they differ. -/

namespace Sys2Proof

/-- A named board command lies in `0x00..0x7D` (R107). -/
theorem boardCommand_lt (k : Fin 126) : (Config.boardCommand k).toNat < 126 := by
  have h := (Config.boardNumbering k).isLt
  simp only [Config.boardCommand, BitVec.toNat_ofNat]
  omega

/-- A named application message lies in `0x80..0xFF` (R107). -/
theorem appCommand_ge (k : Fin 128) : 128 ≤ (Config.appCommand k).toNat := by
  have h := (Config.appNumbering k).isLt
  simp only [Config.appCommand, BitVec.toNat_ofNat]
  omega

/-- Two named board commands are equal only if they are the same one (R7). -/
theorem boardCommand_inj {j k : Fin 126} : Config.boardCommand j = Config.boardCommand k ↔ j = k := by
  have hj := (Config.boardNumbering j).isLt
  have hk := (Config.boardNumbering k).isLt
  refine ⟨fun h => Config.boardNumbering.injective (Fin.ext ?_), fun h => h ▸ rfl⟩
  have := congrArg BitVec.toNat h
  simp only [Config.boardCommand, BitVec.toNat_ofNat] at this
  omega

/-- Two named application messages are equal only if they are the same one (R7). -/
theorem appCommand_inj {j k : Fin 128} : Config.appCommand j = Config.appCommand k ↔ j = k := by
  have hj := (Config.appNumbering j).isLt
  have hk := (Config.appNumbering k).isLt
  refine ⟨fun h => Config.appNumbering.injective (Fin.ext ?_), fun h => h ▸ rfl⟩
  have := congrArg BitVec.toNat h
  simp only [Config.appCommand, BitVec.toNat_ofNat] at this
  omega

end Sys2Proof
end

