-- ==== Sys2Proof/Laws/Decode.lean ====
section
/-! SUPPORT. The rows of the opcode table as tests on the COMMAND byte, and what the decoder gives a header of each class. -/

namespace Sys2Proof

/-- A mask that covers SYNC and part of COMMAND leaves nothing of LENGTH in the header word. -/
theorem headerWord_and (sync len command m : Byte) :
    headerWord sync len command &&& (0xFF#8 ++ 0x00#8 ++ m) = sync ++ 0x00#8 ++ (command &&& m) := by
  unfold headerWord
  rw [BitVec.and_append, BitVec.and_append, show sync &&& 0xFF#8 = sync from BitVec.and_allOnes]
  simp

/-- The four rows that have bits, read as tests on COMMAND (R104, R106, R109). -/
theorem rowSelects_iff (len command : Byte) :
    rowSelects 0xFF00FF 0x5A007E (headerWord 0x5A len command) = decide (command = 0x7E) ∧
    rowSelects 0xFF00FF 0x5A007F (headerWord 0x5A len command) = decide (command = 0x7F) ∧
    rowSelects 0xFF0080 0x5A0000 (headerWord 0x5A len command) = !command.getLsbD 7 ∧
    rowSelects 0xFF0080 0x5A0080 (headerWord 0x5A len command) = command.getLsbD 7 := by
  have h1 := headerWord_and 0x5A len command 0xFF#8
  have h2 := headerWord_and 0x5A len command 0x80#8
  rw [show (0xFF#8 ++ 0x00#8 ++ 0xFF#8) = (0xFF00FF : BitVec 24) from rfl] at h1
  rw [show (0xFF#8 ++ 0x00#8 ++ 0x80#8) = (0xFF0080 : BitVec 24) from rfl] at h2
  unfold rowSelects
  rw [h1, h2]
  clear h1 h2
  revert command
  decide +kernel

/-- Bit 7 of a byte is set exactly from `0x80` on (R106). -/
theorem getLsbD_seven {c : Byte} : c.getLsbD 7 = true ↔ 128 ≤ c.toNat := by
  have := c.isLt
  rw [BitVec.getLsbD, Nat.testBit_eq_decide_div_mod_eq]
  simp only [decide_eq_true_eq]
  omega

/-- A header with a board command other than the self-test pair decodes to row `BOARD`. -/
theorem decode_board {len command : Byte} {rest : List Byte} (h : command.toNat < 126) :
    decode (0x5A :: len :: command :: rest) = .ok (.board len command (rest.take (len.toNat - 1))) := by
  obtain ⟨h1, h2, h3, -⟩ := rowSelects_iff len command
  have h7 : command.getLsbD 7 = false := by
    rw [← Bool.not_eq_true, getLsbD_seven]
    omega
  have a : command ≠ 0x7E := fun e => by rw [e] at h; exact absurd h (by decide)
  have b : command ≠ 0x7F := fun e => by rw [e] at h; exact absurd h (by decide)
  simp only [decode, decodeHeader, h1, h2, h3, h7, decide_eq_true_eq, if_neg a, if_neg b, if_true, Bool.not_false]

/-- A header with bit 7 of its command set decodes to row `APP`. -/
theorem decode_app {len command : Byte} {rest : List Byte} (h : 128 ≤ command.toNat) :
    decode (0x5A :: len :: command :: rest) = .ok (.app len command (rest.take (len.toNat - 1))) := by
  obtain ⟨h1, h2, h3, h4⟩ := rowSelects_iff len command
  have h7 : command.getLsbD 7 = true := getLsbD_seven.2 h
  have a : command ≠ 0x7E := fun e => by rw [e] at h; exact absurd h (by decide)
  have b : command ≠ 0x7F := fun e => by rw [e] at h; exact absurd h (by decide)
  simp only [decode, decodeHeader, h1, h2, h3, h4, h7, decide_eq_true_eq, if_neg a, if_neg b, if_true, Bool.not_true,
    Bool.false_eq_true, if_false]

end Sys2Proof
end

