-- ==== Sys2Proof/Laws/Memory.lean ====
section
/-! SUPPORT. Buffers: what a write changes, and that every write keeps the canonical form and the containment. -/

namespace Sys2Proof.Machine

@[simp] theorem Memory.read_nil (a : Nat) : Memory.read [] a = Memory.unlisted := rfl

theorem Memory.read_cons (k : Nat) (v : Byte) (m : Memory) (a : Nat) :
    Memory.read ((k, v) :: m) a = if k = a then v else Memory.read m a := rfl

/-- An offset below every listed one reads as unlisted. -/
theorem Memory.read_below {m : Memory} {a : Nat} (h : ∀ c ∈ m, a < c.1) : Memory.read m a = Memory.unlisted := by
  induction m with
  | nil => rfl
  | cons c m ih =>
    have hc := h c (by simp)
    rw [show c = (c.1, c.2) from rfl, Memory.read_cons, if_neg (by omega)]
    exact ih fun d hd => h d (by simp [hd])

/-- An offset at or above the capacity of a contained buffer reads as unlisted. -/
theorem Memory.read_above {m : Memory} {cap a : Nat} (h : Memory.within cap m) (ha : cap ≤ a) :
    Memory.read m a = Memory.unlisted := by
  induction m with
  | nil => rfl
  | cons c m ih =>
    have hc := h c (by simp)
    rw [show c = (c.1, c.2) from rfl, Memory.read_cons, if_neg (by omega)]
    exact ih fun d hd => h d (by simp [hd])

/-- The tail of a canonical buffer is canonical and lies above its head. -/
theorem Memory.wf_cons {c : Host.Cell} {m : Memory} :
    Memory.wf (c :: m) ↔ (∀ d ∈ m, c.1 < d.1) ∧ c.2 ≠ Memory.unlisted ∧ Memory.wf m := by
  simp only [Memory.wf, List.pairwise_cons, List.forall_mem_cons]
  tauto

/-- Where a cell of a written buffer comes from. -/
theorem Memory.mem_write {m : Memory} {a : Nat} {b : Byte} {c : Host.Cell} (h : c ∈ Memory.write m a b) :
    c ∈ m ∨ (c = (a, b) ∧ b ≠ Memory.unlisted) := by
  induction m with
  | nil =>
    simp only [Memory.write] at h
    split at h <;> simp_all
  | cons d m ih =>
    obtain ⟨k, v⟩ := d
    simp only [Memory.write] at h
    split at h
    · split at h <;> simp_all
      tauto
    · split at h
      · split at h <;> simp_all
        tauto
      · rcases List.mem_cons.1 h with h | h
        · exact .inl (by simp [h])
        · rcases ih h with h | h
          · exact .inl (by simp [h])
          · exact .inr h

/-- A write keeps the canonical form. -/
theorem Memory.write_wf {m : Memory} (h : m.wf) (a : Nat) (b : Byte) : (Memory.write m a b).wf := by
  induction m with
  | nil => by_cases hb : b = Memory.unlisted <;> simp [Memory.write, Memory.wf, hb]
  | cons d m ih =>
    obtain ⟨k, v⟩ := d
    obtain ⟨hk, hv, hm⟩ := Memory.wf_cons.1 h
    simp only [Memory.write]
    split
    · rename_i hlt
      split
      · exact h
      · rename_i hb
        refine Memory.wf_cons.2 ⟨fun c hc => ?_, hb, h⟩
        rcases List.mem_cons.1 hc with rfl | hc
        · exact hlt
        · exact lt_trans hlt (hk c hc)
    · split
      · rename_i _ heq
        split
        · exact hm
        · rename_i hb
          exact Memory.wf_cons.2 ⟨fun c hc => heq ▸ hk c hc, hb, hm⟩
      · rename_i hlt hne
        refine Memory.wf_cons.2 ⟨fun c hc => ?_, hv, ih hm⟩
        rcases Memory.mem_write hc with hc | ⟨rfl, -⟩
        · exact hk c hc
        · simp only at hlt hne ⊢
          omega

/-- A read after a write (of a canonical buffer): the written byte at its offset, every other byte as before. -/
theorem Memory.read_write {m : Memory} (h : m.wf) (a : Nat) (b : Byte) (x : Nat) :
    Memory.read (Memory.write m a b) x = if x = a then b else Memory.read m x := by
  induction m with
  | nil =>
    by_cases hb : b = Memory.unlisted
    · simp [Memory.write, hb]
    · simp [Memory.write, hb, Memory.read_cons, eq_comm]
  | cons d m ih =>
    obtain ⟨k, v⟩ := d
    obtain ⟨hk, hv, hm⟩ := Memory.wf_cons.1 h
    have below : ∀ y, y ≤ k → Memory.read m y = Memory.unlisted := fun y hy =>
      Memory.read_below fun c hc => lt_of_le_of_lt hy (hk c hc)
    simp only [Memory.write]
    split
    · rename_i hlt
      split
      · rename_i hb
        by_cases hx : x = a
        · subst hx
          rw [if_pos rfl, Memory.read_cons, if_neg (by omega), below _ (by omega), hb]
        · rw [if_neg hx]
      · rw [Memory.read_cons]
        by_cases hx : x = a
        · simp [hx]
        · rw [if_neg (fun e => hx e.symm), if_neg hx]
    · split
      · rename_i _ heq
        subst heq
        split
        · rename_i hb
          by_cases hx : x = a
          · subst hx
            rw [if_pos rfl, below _ (le_refl _), hb]
          · rw [if_neg hx, Memory.read_cons, if_neg (fun e => hx e.symm)]
        · rw [Memory.read_cons, Memory.read_cons]
          by_cases hx : x = a
          · simp [hx]
          · rw [if_neg (fun e => hx e.symm), if_neg hx, if_neg (fun e => hx e.symm)]
      · rename_i hlt hne
        rw [Memory.read_cons, Memory.read_cons, ih hm]
        by_cases hx : k = x
        · rw [if_pos hx, if_neg (by omega), if_pos hx]
        · rw [if_neg hx, if_neg hx]

/-- A write inside the capacity stays inside it. -/
theorem Memory.write_within {m : Memory} {cap : Nat} (h : Memory.within cap m) {a : Nat} (ha : a < cap) (b : Byte) :
    Memory.within cap (Memory.write m a b) := fun c hc => by
  rcases Memory.mem_write hc with hc | ⟨rfl, -⟩
  · exact h c hc
  · exact ha

/-- A block write keeps the canonical form. -/
theorem Memory.writeBlock_wf {m : Memory} (h : m.wf) (a : Nat) (bytes : List Byte) :
    (Memory.writeBlock m a bytes).wf := by
  induction bytes generalizing m a with
  | nil => exact h
  | cons b rest ih => exact ih (Memory.write_wf h a b) (a + 1)

/-- A block write inside the capacity stays inside it. -/
theorem Memory.writeBlock_within {m : Memory} {cap : Nat} (h : Memory.within cap m) {a : Nat} {bytes : List Byte}
    (ha : a + bytes.length ≤ cap) : Memory.within cap (Memory.writeBlock m a bytes) := by
  induction bytes generalizing m a with
  | nil => exact h
  | cons b rest ih =>
    simp only [List.length_cons] at ha
    exact ih (Memory.write_within h (by omega) b) (by omega)

/-- A read after a block write: the block's byte inside the block, every other byte as before. -/
theorem Memory.read_writeBlock {m : Memory} (h : m.wf) (a : Nat) (bytes : List Byte) (x : Nat) :
    Memory.read (Memory.writeBlock m a bytes) x =
      if a ≤ x ∧ x < a + bytes.length then bytes.getD (x - a) Memory.unlisted else Memory.read m x := by
  induction bytes generalizing m a with
  | nil => simp [Memory.writeBlock]
  | cons b rest ih =>
    simp only [Memory.writeBlock, List.length_cons]
    rw [ih (Memory.write_wf h a b), Memory.read_write h]
    by_cases hx : x = a
    · subst hx
      simp
    · by_cases hin : a + 1 ≤ x ∧ x < a + 1 + rest.length
      · rw [if_pos hin, if_pos (by omega), show x - a = (x - (a + 1)) + 1 by omega, List.getD_cons_succ]
      · rw [if_neg hin, if_neg hx, if_neg (by omega)]

@[simp] theorem Memory.length_readBlock (m : Memory) (a n : Nat) : (Memory.readBlock m a n).length = n := by
  simp [Memory.readBlock]

theorem Memory.getD_readBlock (m : Memory) (a n k : Nat) (hk : k < n) (d : Byte) :
    (Memory.readBlock m a n).getD k d = Memory.read m (a + k) := by
  simp [Memory.readBlock, List.getD_eq_getElem?_getD, hk]

/-- Reading back a block that was written at offset 0 gives the block. -/
theorem Memory.readBlock_writeBlock {m : Memory} (h : m.wf) (bytes : List Byte) :
    Memory.readBlock (Memory.writeBlock m 0 bytes) 0 bytes.length = bytes := by
  apply List.ext_getElem (by simp)
  intro k h1 h2
  simp only [Memory.readBlock, List.getElem_map, List.getElem_range, Nat.zero_add]
  rw [Memory.read_writeBlock h, if_pos ⟨by omega, by omega⟩]
  simp [List.getD_eq_getElem?_getD, List.getElem?_eq_getElem h2]

end Sys2Proof.Machine
end

