-- ==== Sys2Proof/Laws/State.lean ====
section
/-! SUPPORT. The fields of State after each update, and the equations of the two fixed states. -/

namespace Sys2Proof.Machine

variable (s : State)

@[simp] theorem withSlave_slave (x : Slave) : (s.withSlave x).slave = x := rfl
@[simp] theorem withSlave_mailbox (x : Slave) : (s.withSlave x).mailbox = s.mailbox := rfl
@[simp] theorem withSlave_master (x : Slave) : (s.withSlave x).master = s.master := rfl
@[simp] theorem withSlave_env (x : Slave) : (s.withSlave x).env = s.env := rfl

@[simp] theorem withMailbox_slave (x : Mailbox) : (s.withMailbox x).slave = s.slave := rfl
@[simp] theorem withMailbox_mailbox (x : Mailbox) : (s.withMailbox x).mailbox = x := rfl
@[simp] theorem withMailbox_master (x : Mailbox) : (s.withMailbox x).master = s.master := rfl
@[simp] theorem withMailbox_env (x : Mailbox) : (s.withMailbox x).env = s.env := rfl

@[simp] theorem withMaster_slave (x : Master) : (s.withMaster x).slave = s.slave := rfl
@[simp] theorem withMaster_mailbox (x : Master) : (s.withMaster x).mailbox = s.mailbox := rfl
@[simp] theorem withMaster_master (x : Master) : (s.withMaster x).master = x := rfl
@[simp] theorem withMaster_env (x : Master) : (s.withMaster x).env = s.env := rfl

@[simp] theorem withEnv_slave (x : Env) : (s.withEnv x).slave = s.slave := rfl
@[simp] theorem withEnv_mailbox (x : Env) : (s.withEnv x).mailbox = s.mailbox := rfl
@[simp] theorem withEnv_master (x : Env) : (s.withEnv x).master = s.master := rfl
@[simp] theorem withEnv_env (x : Env) : (s.withEnv x).env = x := rfl

@[simp] theorem withSlave_self : s.withSlave s.slave = s := rfl
@[simp] theorem withMailbox_self : s.withMailbox s.mailbox = s := rfl
@[simp] theorem withMaster_self : s.withMaster s.master = s := rfl
@[simp] theorem withEnv_self : s.withEnv s.env = s := rfl

end Sys2Proof.Machine
end

