-- ==== Sys2Proof/Laws/Ops.lean ====
section
/-! SUPPORT. The shared operations: for each one what it can do, and which fields it leaves as they were. -/

namespace Sys2Proof.Machine

/-- A guarded operation answers a next state exactly where it is enabled and its body does. -/
theorem whenEnabled_next {e : Bool} {n : String} {o : Host.Outcome State Fault Refusal} {t : State} :
    whenEnabled e n o = .next t ↔ e = true ∧ o = .next t := by
  cases e <;> simp [whenEnabled]

@[simp] theorem whenEnabled_true (n : String) (o : Host.Outcome State Fault Refusal) : whenEnabled true n o = o := rfl

@[simp] theorem whenEnabled_false (n : String) (o : Host.Outcome State Fault Refusal) :
    whenEnabled false n o = .refused (.notEnabled n) := rfl

/-! ### The parser -/

/-- `F.ENCODE` succeeds exactly for payloads of at most 125 bytes (R131). -/
theorem encodeFrame_eq (c : Byte) (p : List Byte) :
    encodeFrame c p = if p.length ≤ 125 then some (0x5A :: BitVec.ofNat 8 (1 + p.length) :: c :: p) else none := by
  unfold encodeFrame
  simp only
  by_cases h : p.length ≤ 125
  · rw [if_neg (by omega), if_neg (by omega), if_pos h]
  · by_cases h' : 254 < 1 + p.length
    · rw [if_pos h', if_neg h]
    · rw [if_neg h', if_pos (by omega), if_neg h]

/-- What `F.VALIDATE` accepts: SYNC, a LENGTH of `1..254`, a command, and at least `LENGTH - 1` bytes after it (R140). -/
theorem validateFrame_ok {bytes : List Byte} {f : Frame} :
    validateFrame bytes = .ok f ↔ ∃ len rest, bytes = 0x5A :: len :: f.command :: rest ∧ f.length = len.toNat ∧
      1 ≤ len.toNat ∧ len.toNat ≤ 254 ∧ len.toNat - 1 ≤ rest.length ∧ f.payload = rest.take (len.toNat - 1) := by
  obtain ⟨fl, fc, fp⟩ := f
  match bytes with
  | [] => simp [validateFrame]
  | [x] =>
    simp only [validateFrame]
    split <;> simp
  | [x, len] =>
    simp only [validateFrame, validateBody]
    (repeat' split) <;> simp
  | x :: len :: c :: rest =>
    simp only [validateFrame, validateBody, List.length_cons]
    by_cases hx : x = 0x5A
    · rw [if_neg (not_not.2 hx)]
      by_cases hl : len.toNat < 1 ∨ 254 < len.toNat
      · rw [if_pos hl]
        simp only [reduceCtorEq, List.cons.injEq, false_iff, not_exists, not_and]
        rintro l r ⟨-, rfl, -⟩
        omega
      · rw [if_neg hl]
        by_cases hn : rest.length + 1 + 1 + 1 < 2 + len.toNat
        · rw [if_pos hn]
          simp only [reduceCtorEq, List.cons.injEq, false_iff, not_exists, not_and]
          rintro l r ⟨-, rfl, -, rfl⟩
          omega
        · rw [if_neg hn]
          simp only [Except.ok.injEq, Frame.mk.injEq, List.cons.injEq]
          constructor
          · rintro ⟨rfl, rfl, rfl⟩
            exact ⟨len, rest, ⟨hx, rfl, rfl, rfl⟩, rfl, by omega, by omega, by omega, rfl⟩
          · rintro ⟨l, r, ⟨-, rfl, rfl, rfl⟩, rfl, -, -, -, rfl⟩
            exact ⟨rfl, rfl, rfl⟩
    · rw [if_pos hx]
      simp only [reduceCtorEq, List.cons.injEq, false_iff, not_exists, not_and]
      rintro l r ⟨h, -⟩
      exact absurd h hx

/-- A validated frame is a value of the spec's type `Frame`, and as long as the bytes it was read from allow (R130). -/
theorem validateFrame_wellFormed {bytes : List Byte} {f : Frame} (h : validateFrame bytes = .ok f) :
    f.WellFormed = true ∧ 2 + f.length ≤ bytes.length := by
  obtain ⟨len, rest, rfl, hl, h1, h2, h3, hp⟩ := validateFrame_ok.1 h
  simp only [Frame.WellFormed, Bool.and_eq_true, decide_eq_true_eq, hp, hl,
    List.length_take, List.length_cons]
  omega

/-! ### Recording, returning, shifting -/

variable (s : State)

/-- `raise` records the error in `s.diag` and changes nothing else (R15, R300). -/
theorem raiseError_eq (e : ErrorCondition) :
    raiseError e s = { s with slave := { s.slave with diag := recordError s.slave.diag e } } := rfl

@[simp] theorem raiseError_slave (e : ErrorCondition) :
    (raiseError e s).slave = { s.slave with diag := recordError s.slave.diag e } := rfl
@[simp] theorem raiseError_mailbox (e : ErrorCondition) : (raiseError e s).mailbox = s.mailbox := rfl
@[simp] theorem raiseError_master (e : ErrorCondition) : (raiseError e s).master = s.master := rfl
@[simp] theorem raiseError_env (e : ErrorCondition) : (raiseError e s).env = s.env := rfl

@[simp] theorem returnApp_slave (r : AppResult) : (returnApp r s).slave = s.slave := rfl
@[simp] theorem returnApp_mailbox (r : AppResult) : (returnApp r s).mailbox = s.mailbox := rfl
@[simp] theorem returnApp_master (r : AppResult) : (returnApp r s).master = s.master := rfl
@[simp] theorem returnApp_env (r : AppResult) : (returnApp r s).env = { s.env with appRet := some r } := rfl

@[simp] theorem returnMaster_slave (r : MasterResult) : (returnMaster r s).slave = s.slave := rfl
@[simp] theorem returnMaster_mailbox (r : MasterResult) : (returnMaster r s).mailbox = s.mailbox := rfl
@[simp] theorem returnMaster_master (r : MasterResult) : (returnMaster r s).master = s.master := rfl
@[simp] theorem returnMaster_env (r : MasterResult) : (returnMaster r s).env = { s.env with masterRet := some r } := rfl

@[simp] theorem emitBoard_slave (c : Byte) (p : List Byte) : (emitBoard c p s).slave = s.slave := rfl
@[simp] theorem emitBoard_mailbox (c : Byte) (p : List Byte) : (emitBoard c p s).mailbox = s.mailbox := rfl
@[simp] theorem emitBoard_master (c : Byte) (p : List Byte) : (emitBoard c p s).master = s.master := rfl

/-- A board command is one output event (R274). -/
@[simp] theorem emitBoard_env (c : Byte) (p : List Byte) :
    (emitBoard c p s).env = { s.env with emitted := s.env.emitted ++ [{ command := c, payload := p }] } := rfl

@[simp] theorem shiftOut_slave (b : Byte) : (shiftOut b s).slave = s.slave := rfl
@[simp] theorem shiftOut_mailbox (b : Byte) : (shiftOut b s).mailbox = s.mailbox := rfl
@[simp] theorem shiftOut_master (b : Byte) : (shiftOut b s).master = s.master := rfl
@[simp] theorem shiftOut_env (b : Byte) : (shiftOut b s).env = { s.env with slaveOut := b } := rfl

@[simp] theorem shiftDraw_slave : (shiftDraw s).slave = s.slave := rfl
@[simp] theorem shiftDraw_mailbox : (shiftDraw s).mailbox = s.mailbox := rfl
@[simp] theorem shiftDraw_master : (shiftDraw s).master = s.master := rfl
@[simp] theorem shiftDraw_env :
    (shiftDraw s).env = { s.env with slaveOut := Config.draw s.env.draws, draws := s.env.draws + 1 } := rfl

/-- `is_time_up` compares the elapsed time with the bound (R323). -/
theorem isTimeUp_iff {now start : Word32} {dur : Nat} : isTimeUp now start dur = true ↔ dur ≤ (now - start).toNat := by
  rw [isTimeUp, decide_eq_true_eq]

/-! ### The transmit path and dispatch -/

/-- What `S.QUEUE` can do (R205): refuse in `ERROR`, refuse the payload, refuse with `TX_REJECT`, or take the message. -/
theorem queueMessage_cases (c : Byte) (p : List Byte) :
    (s.slave.state = .error ∧ queueMessage c p s = (.queueRejected, s)) ∨
    (s.slave.state ≠ .error ∧ 125 < p.length ∧ queueMessage c p s = (.queueEncodeError, s)) ∨
    (s.slave.state ≠ .error ∧ p.length ≤ 125 ∧ s.slave.txPending = true ∧
      queueMessage c p s = (.queueRejected, raiseError .rejected s)) ∨
    (s.slave.state ≠ .error ∧ p.length ≤ 125 ∧ s.slave.txPending = false ∧
      queueMessage c p s = (.queueOk, s.withSlave { s.slave with
        txBuf := Memory.writeBlock s.slave.txBuf 0 (0x5A :: BitVec.ofNat 8 (1 + p.length) :: c :: p)
        txLen := Fin.ofNat 129 (p.length + 3), txPending := true })) := by
  unfold queueMessage
  rw [encodeFrame_eq]
  by_cases he : s.slave.state = .error
  · exact .inl ⟨he, by rw [if_pos he]⟩
  · by_cases hp : p.length ≤ 125
    · cases ht : s.slave.txPending
      · exact .inr (.inr (.inr ⟨he, hp, rfl, by rw [if_neg he, if_pos hp]; rfl⟩))
      · exact .inr (.inr (.inl ⟨he, hp, rfl, by rw [if_neg he, if_pos hp]; simp⟩))
    · exact .inr (.inl ⟨he, by omega, by rw [if_neg he, if_neg hp]⟩)

@[simp] theorem queueMessage_mailbox (c : Byte) (p : List Byte) : (queueMessage c p s).2.mailbox = s.mailbox := by
  rcases queueMessage_cases s c p with ⟨-, h⟩ | ⟨-, -, h⟩ | ⟨-, -, -, h⟩ | ⟨-, -, -, h⟩ <;> rw [h] <;> rfl

@[simp] theorem queueMessage_master (c : Byte) (p : List Byte) : (queueMessage c p s).2.master = s.master := by
  rcases queueMessage_cases s c p with ⟨-, h⟩ | ⟨-, -, h⟩ | ⟨-, -, -, h⟩ | ⟨-, -, -, h⟩ <;> rw [h] <;> rfl

@[simp] theorem queueMessage_env (c : Byte) (p : List Byte) : (queueMessage c p s).2.env = s.env := by
  rcases queueMessage_cases s c p with ⟨-, h⟩ | ⟨-, -, h⟩ | ⟨-, -, -, h⟩ | ⟨-, -, -, h⟩ <;> rw [h] <;> rfl

/-- What `S.QUEUE` leaves of the slave: everything but `s.diag` and the pending message. -/
theorem queueMessage_slave (c : Byte) (p : List Byte) :
    ∃ d b l t, (queueMessage c p s).2.slave = { s.slave with diag := d, txBuf := b, txLen := l, txPending := t } := by
  rcases queueMessage_cases s c p with ⟨-, h⟩ | ⟨-, -, h⟩ | ⟨-, -, -, h⟩ | ⟨-, -, -, h⟩ <;> rw [h] <;>
    exact ⟨_, _, _, _, rfl⟩

@[simp] theorem postMessage_slave (f : Frame) : (postMessage f s).slave = s.slave := rfl
@[simp] theorem postMessage_master (f : Frame) : (postMessage f s).master = s.master := rfl
@[simp] theorem postMessage_env (f : Frame) : (postMessage f s).env = s.env := rfl

/-- The mailbox after an application frame, cell by cell (R79, R273). -/
theorem postMessage_mailbox {f : Frame} (h : s.mailbox.buf.wf) (hf : f.length ≤ 126) :
    (postMessage f s).mailbox.new = true ∧ (postMessage f s).mailbox.len.val = f.length ∧
    ∀ a, Memory.read (postMessage f s).mailbox.buf a =
      if a < 1 + f.payload.length then (f.command :: f.payload).getD a Memory.unlisted else Memory.read s.mailbox.buf a := by
  refine ⟨rfl, by simp only [postMessage, withMailbox_mailbox, Fin.ofNat]; omega, fun a => ?_⟩
  simp only [postMessage, withMailbox_mailbox]
  rw [Memory.read_writeBlock h]
  simp only [List.length_cons, Nat.zero_le, true_and, Nat.zero_add, Nat.sub_zero, Nat.add_comm]

/-- The three routes of `D.DISPATCH` (R270). -/
theorem dispatchFrame_cases (f : Frame) :
    (0x80 ≤ f.command ∧ dispatchFrame f s = postMessage f s) ∨
    (f.command = 0x7E ∧ dispatchFrame f s = (queueMessage 0x7F [] s).2) ∨
    (f.command < 0x80 ∧ f.command ≠ 0x7E ∧ dispatchFrame f s = emitBoard f.command f.payload s) := by
  unfold dispatchFrame
  by_cases h : 0x80 ≤ f.command
  · exact .inl ⟨h, by rw [if_pos h]⟩
  · by_cases h' : f.command = 0x7E
    · exact .inr (.inl ⟨h', by rw [if_neg h, if_pos h']⟩)
    · exact .inr (.inr ⟨BitVec.not_le.1 h, h', by rw [if_neg h, if_neg h']⟩)

@[simp] theorem dispatchFrame_master (f : Frame) : (dispatchFrame f s).master = s.master := by
  rcases dispatchFrame_cases s f with ⟨-, h⟩ | ⟨-, h⟩ | ⟨-, -, h⟩ <;> rw [h] <;> simp [postMessage]

/-- What `D.DISPATCH` leaves of the slave: everything but `s.diag` and the pending message. -/
theorem dispatchFrame_slave (f : Frame) :
    ∃ d b l t, (dispatchFrame f s).slave = { s.slave with diag := d, txBuf := b, txLen := l, txPending := t } := by
  rcases dispatchFrame_cases s f with ⟨-, h⟩ | ⟨-, h⟩ | ⟨-, -, h⟩ <;> rw [h]
  · exact ⟨_, _, _, _, rfl⟩
  · exact queueMessage_slave s _ _
  · exact ⟨_, _, _, _, rfl⟩

/-- What the delivery of a session's bytes can do (R190, R191). -/
theorem deliverBytes_cases (bytes : List Byte) :
    (∃ f, validateFrame bytes = .ok f ∧ deliverBytes bytes s = dispatchFrame f s) ∨
    (∃ e, validateFrame bytes = .error e ∧
      deliverBytes bytes s = { s with slave := { s.slave with diag := s.slave.diag ||| 0x08 } }) := by
  unfold deliverBytes
  cases h : validateFrame bytes with
  | ok f => exact .inl ⟨f, rfl, rfl⟩
  | error e => exact .inr ⟨e, rfl, by cases e <;> rfl⟩

@[simp] theorem deliverBytes_master (bytes : List Byte) : (deliverBytes bytes s).master = s.master := by
  rcases deliverBytes_cases s bytes with ⟨f, -, h⟩ | ⟨e, -, h⟩ <;> rw [h]
  exact dispatchFrame_master s f

/-- What a delivery leaves of the slave: everything but `s.diag` and the pending message. -/
theorem deliverBytes_slave (bytes : List Byte) :
    ∃ d b l t, (deliverBytes bytes s).slave = { s.slave with diag := d, txBuf := b, txLen := l, txPending := t } := by
  rcases deliverBytes_cases s bytes with ⟨f, -, h⟩ | ⟨e, -, h⟩ <;> rw [h]
  · exact dispatchFrame_slave s f
  · exact ⟨_, _, _, _, rfl⟩

/-! ### Sessions and polls -/

@[simp] theorem closeRx_slave : (closeRx s).slave =
    { s.slave with rxCount := 0, rxCursor := 0, srdy := false, csAck := false, state := .idle } := rfl
@[simp] theorem closeRx_mailbox : (closeRx s).mailbox = s.mailbox := rfl
@[simp] theorem closeRx_master : (closeRx s).master = s.master := rfl
@[simp] theorem closeRx_env : (closeRx s).env = s.env := rfl

@[simp] theorem closeTx_slave : (closeTx s).slave = { s.slave with
    srdy := false, mrdy := false, txCount := 0, txPending := false, txLen := 0, csAck := false, state := .idle } := rfl
@[simp] theorem closeTx_mailbox : (closeTx s).mailbox = s.mailbox := rfl
@[simp] theorem closeTx_master : (closeTx s).master = s.master := rfl
@[simp] theorem closeTx_env : (closeTx s).env = s.env := rfl

@[simp] theorem openSession_slave : (openSession s).slave = { s.slave with
    tStart := s.slave.now, csAck := true, srdy := true, state := if s.slave.mrdy then .tx else .rx } := rfl
@[simp] theorem openSession_mailbox : (openSession s).mailbox = s.mailbox := rfl
@[simp] theorem openSession_master : (openSession s).master = s.master := rfl
@[simp] theorem openSession_env : (openSession s).env = s.env := rfl

/-- The outcomes of a poll in `IDLE` (R185 to R187). -/
theorem pollIdle_cases :
    (csLine s = true ∧ pollIdle s = openSession s) ∨
    (csLine s = false ∧ s.slave.txPending = true ∧ s.slave.mrdy = false ∧
      pollIdle s = s.withSlave { s.slave with mrdy := true }) ∨
    (csLine s = false ∧ (s.slave.txPending = false ∨ s.slave.mrdy = true) ∧ pollIdle s = s) := by
  unfold pollIdle
  cases hc : csLine s <;> cases hp : s.slave.txPending <;> cases hm : s.slave.mrdy <;> simp

/-- The outcomes of a poll in `RX` (R188). -/
theorem pollRx_cases :
    (csLine s = false ∧ pollRx s = closeRx (deliverBytes (heldBytes s) s)) ∨
    (csLine s = true ∧ 1000 ≤ (s.slave.now - s.slave.tStart).toNat ∧ pollRx s = closeRx (raiseError .rxTimeout s)) ∨
    (csLine s = true ∧ (s.slave.now - s.slave.tStart).toNat < 1000 ∧ pollRx s = s) := by
  unfold pollRx sessionTimedOut isTimeUp
  cases hc : csLine s
  · exact .inl ⟨rfl, rfl⟩
  · by_cases h : 1000 ≤ (s.slave.now - s.slave.tStart).toNat
    · exact .inr (.inl ⟨rfl, h, by rw [if_neg (by simp), if_pos (decide_eq_true h)]⟩)
    · exact .inr (.inr ⟨rfl, by omega, by rw [if_neg (by simp), if_neg (by simpa only [decide_eq_true_eq] using h)]⟩)

/-- The outcomes of a poll in `TX` (R193, R194). -/
theorem pollTx_cases :
    (csLine s = false ∧ pollTx s = closeTx s) ∨
    (csLine s = true ∧ 1000 ≤ (s.slave.now - s.slave.tStart).toNat ∧ pollTx s = closeTx (raiseError .txTimeout s)) ∨
    (csLine s = true ∧ (s.slave.now - s.slave.tStart).toNat < 1000 ∧ pollTx s = s) := by
  unfold pollTx sessionTimedOut isTimeUp
  cases hc : csLine s
  · exact .inl ⟨rfl, rfl⟩
  · by_cases h : 1000 ≤ (s.slave.now - s.slave.tStart).toNat
    · exact .inr (.inl ⟨rfl, h, by rw [if_neg (by simp), if_pos (decide_eq_true h)]⟩)
    · exact .inr (.inr ⟨rfl, by omega, by rw [if_neg (by simp), if_neg (by simpa only [decide_eq_true_eq] using h)]⟩)

/-- A poll writes no master state (R320). -/
@[simp] theorem poll_master : (poll s).master = s.master := by
  unfold poll
  cases s.slave.state <;> simp only
  · rcases pollIdle_cases s with ⟨-, h⟩ | ⟨-, -, -, h⟩ | ⟨-, -, h⟩ <;> rw [h] <;> simp
  · rcases pollRx_cases s with ⟨-, h⟩ | ⟨-, -, h⟩ | ⟨-, -, h⟩ <;> rw [h] <;> simp
  · rcases pollTx_cases s with ⟨-, h⟩ | ⟨-, -, h⟩ | ⟨-, -, h⟩ <;> rw [h] <;> simp
  · rfl

/-! ### The callback and the exchange -/

/-- The store offset is inside the Receive Buffer (R196, R217). -/
theorem storeOffset_lt (c : Fin 129) : storeOffset c < 128 := by
  have := c.isLt
  unfold storeOffset
  split
  · omega
  · simp_all
    omega

/-- The cursor after a store is one past the store offset. -/
theorem cursor_after (c : Fin 129) : (Fin.ofNat 129 (storeOffset c + 1)).val = storeOffset c + 1 := by
  have := storeOffset_lt c
  simp only [Fin.ofNat]
  omega

/-- What an exchange does (R165, R195): the callback of the slave's state, or a draw alone before `S.INIT`. -/
theorem exchange_cases (b : Byte) :
    (s.slave.inited = false ∧ exchange b s = shiftDraw s) ∨
    (s.slave.inited = true ∧ (s.slave.state = .idle ∨ s.slave.state = .error) ∧ exchange b s = shiftDraw s) ∨
    (s.slave.inited = true ∧ s.slave.state = .rx ∧ exchange b s = byteRx b s) ∨
    (s.slave.inited = true ∧ s.slave.state = .tx ∧ exchange b s = byteTx b s) := by
  unfold exchange slaveUp slaveByte byteOther
  cases hi : s.slave.inited <;> cases hx : s.slave.state <;> simp

/-- What the callback writes (R315): nothing of the mailbox or the master, and of the slave only SRDY, the receive buffer, its
cursor and counter, the transmitted-byte counter and `RX_OVERFLOW`. -/
theorem exchange_writes (b : Byte) :
    (exchange b s).mailbox = s.mailbox ∧ (exchange b s).master = s.master ∧
    ∃ r rb rc n tc d, (exchange b s).slave =
      { s.slave with srdy := r, rxBuf := rb, rxCursor := rc, rxCount := n, txCount := tc, diag := d } := by
  unfold exchange slaveByte byteRx byteTx byteOther
  split
  · cases s.slave.state <;> simp only
    · exact ⟨rfl, rfl, _, _, _, _, _, _, rfl⟩
    · exact ⟨rfl, rfl, _, _, _, _, _, _, rfl⟩
    · split <;> exact ⟨rfl, rfl, _, _, _, _, _, _, rfl⟩
    · exact ⟨rfl, rfl, _, _, _, _, _, _, rfl⟩
  · exact ⟨rfl, rfl, _, _, _, _, _, _, rfl⟩

/-! ### Enabling -/

/-- A master micro-step is enabled in its phase alone (R232). -/
theorem inPhase_iff {p : Phase} : inPhase p s = true ↔ s.master.inited = true ∧ s.master.phase = p := by
  simp [inPhase, masterUp]

/-- A clocking micro-step is enabled in its phase and for its operation alone (R232). -/
theorem clocking_iff {op : MasterOp} :
    clocking op s = true ↔ s.master.inited = true ∧ s.master.phase = .clock ∧ s.master.op = op := by
  simp [clocking, inPhase_iff, and_assoc]

/-- The poll or callback of a state is enabled in that state alone (R183, R195). -/
theorem slaveIn_iff {x : LinkState} : slaveIn x s = true ↔ s.slave.inited = true ∧ s.slave.state = x := by
  simp [slaveIn, slaveUp]

/-- A choice of the environment changes none of the spec's state. -/
theorem afterChoice_link :
    (afterChoice s).slave = s.slave ∧ (afterChoice s).mailbox = s.mailbox ∧ (afterChoice s).master = s.master := by
  unfold afterChoice
  split <;> exact ⟨rfl, rfl, rfl⟩

end Sys2Proof.Machine
end

