-- ==== Sys2Proof/Laws/Registers.lean ====
section
/-! SUPPORT. The register view: each register as the words of its fields, so that no proof folds over the field list. -/

namespace Sys2Proof.Machine

variable (s : State)

theorem readRegister_sStatus : readRegister .sStatus s =
    BitVec.ofNat 32 (fieldValue .state s) ||| BitVec.ofNat 32 (fieldValue .csAck s) <<< 2 |||
      BitVec.ofNat 32 (fieldValue .txPending s) <<< 3 ||| BitVec.ofNat 32 (fieldValue .mbNew s) <<< 4 := by
  simp [readRegister, allFields, fieldPlace]

theorem readRegister_sLines : readRegister .sLines s =
    BitVec.ofNat 32 (fieldValue .srdy s) ||| BitVec.ofNat 32 (fieldValue .mrdy s) <<< 1 |||
      BitVec.ofNat 32 (fieldValue .csIn s) <<< 2 := by simp [readRegister, allFields, fieldPlace]

theorem readRegister_mStatus : readRegister .mStatus s =
    BitVec.ofNat 32 (fieldValue .phase s) ||| BitVec.ofNat 32 (fieldValue .op s) <<< 2 := by
  simp [readRegister, allFields, fieldPlace]

theorem readRegister_mLines : readRegister .mLines s =
    BitVec.ofNat 32 (fieldValue .cs s) ||| BitVec.ofNat 32 (fieldValue .srdyIn s) <<< 1 |||
      BitVec.ofNat 32 (fieldValue .mrdyIn s) <<< 2 := by simp [readRegister, allFields, fieldPlace]

/-- A register of one field is that field. -/
theorem readRegister_single :
    readRegister .sDiag s = BitVec.ofNat 32 (fieldValue .diagFlags s) ∧
    readRegister .sRxcnt s = BitVec.ofNat 32 (fieldValue .rxCount s) ∧
    readRegister .sRxcur s = BitVec.ofNat 32 (fieldValue .rxCursor s) ∧
    readRegister .sTxcnt s = BitVec.ofNat 32 (fieldValue .txCount s) ∧
    readRegister .sTxlen s = BitVec.ofNat 32 (fieldValue .txLen s) ∧
    readRegister .sTstart s = BitVec.ofNat 32 (fieldValue .tStart s) ∧
    readRegister .sNow s = BitVec.ofNat 32 (fieldValue .slaveNow s) ∧
    readRegister .mbLen s = BitVec.ofNat 32 (fieldValue .mailboxLen s) ∧
    readRegister .mNow s = BitVec.ofNat 32 (fieldValue .masterNow s) := by
  simp [readRegister, allFields, fieldPlace]

end Sys2Proof.Machine
end

