-- ==== Sys2Proof/Laws/Step.lean ====
section
/-! SUPPORT. What one step can do, and what the history of a session's overflow says. -/

namespace Sys2Proof.Machine

/-- A step that answers a next state ran an enabled event, or used up a choice that is none. -/
theorem step_cases {s t : State} (h : step s = .next t) :
    (isEvent (nextEvent s) = true ∧ enabled (nextEvent s) (afterChoice s) = true ∧
      exec (nextEvent s) (afterChoice s) = .next t) ∨ t = afterChoice s := by
  unfold step at h
  split at h
  · rename_i hrun
    simp only [Bool.and_eq_true] at hrun
    exact .inl ⟨hrun.1, hrun.2, h⟩
  · cases h
    exact .inr rfl

/-- The overflow of a session is seen where the session goes on and it had been seen or is set by a byte at the full buffer. -/
theorem overflowSeen_iff {seen : Bool} {s t : State} : overflowSeen seen s t = true ↔
    (s.slave.state = .rx ∧ t.slave.state = .rx) ∧
      (seen = true ∨ s.slave.rxCursor.val = 128 ∧ t.slave.rxCount ≠ s.slave.rxCount) := by
  simp [overflowSeen]

end Sys2Proof.Machine
end

