-- ==== Sys2Proof/Tests/Slice0.lean ====
section
/-! SUPPORT. Tests: what `WellFormed` refuses, words written out from the encoding, the vectors of `95_test_vectors.md` (named
in each comment), and for every obligation with hypotheses a state and operands that meet them together. -/

open Sys2Proof Sys2Proof.Machine

namespace Sys2Proof.Tests

set_option Elab.async false

/-- The next state of an outcome. -/
def nextOf (o : Host.Outcome State Fault Refusal) : Option State :=
  match o with
  | .next t => some t
  | .fault _ => none
  | .refused _ => none

/-- The fault of an outcome. -/
def faultOf (o : Host.Outcome State Fault Refusal) : Option Fault :=
  match o with
  | .next _ => none
  | .fault r => some r
  | .refused _ => none

/-- The refusal of an outcome. -/
def refusalOf (o : Host.Outcome State Fault Refusal) : Option Refusal :=
  match o with
  | .next _ => none
  | .fault _ => none
  | .refused r => some r

/-- The state after an instruction. -/
def after (i : Instr) (s : State) : Option State := nextOf (exec i s)

/-- The two sides put together. -/
def link (x : Slave) (m : Master) : State := { State.reset with slave := x, master := m }

def slaveRx : Slave := { Slave.reset with state := .rx, srdy := true, csAck := true }
def slaveErr : Slave := { Slave.reset with state := .error }

/-- A slave with `5A 02 85 01` pending. -/
def slavePending : Slave :=
  { Slave.reset with txPending := true, txBuf := [(0, 0x5A), (1, 0x02), (2, 0x85), (3, 0x01)], txLen := 4 }
def slaveAnnounced : Slave := { slavePending with mrdy := true }
def slaveTx : Slave := { slaveAnnounced with state := .tx, srdy := true, csAck := true }

/-- A master with `5A 01 7E` to send, chip-select asserted, in a phase. -/
def sender (p : Phase) (idx : Nat) : Master :=
  { Master.reset with phase := p, cs := true, tx := [0x5A, 0x01, 0x7E], n := 3, idx := idx }

/-- A master that receives into `cap` bytes. -/
def receiver (p : Phase) (cap idx : Nat) : Master :=
  { Master.reset with phase := p, op := .recv, cs := true, cap := cap, idx := idx, expected := 2 }

/-! ## WellFormed: one ill-formed term for each check -/

theorem test_frame_length_zero_refused : Frame.WellFormed ⟨0, 0x7E, []⟩ = false := by decide
theorem test_frame_length_255_refused : Frame.WellFormed ⟨255, 0x7E, List.replicate 254 0⟩ = false := by decide +kernel
theorem test_frame_length_mismatch_refused : Frame.WellFormed ⟨2, 0x7E, []⟩ = false := by decide
theorem test_length_byte_zero_refused : Instr.WellFormed (.test 0 []) = false := by decide
theorem test_length_byte_255_refused : Instr.WellFormed (.ack 255 (List.replicate 254 0)) = false := by decide +kernel
theorem test_length_byte_mismatch_refused : Instr.WellFormed (.led 1 [0x00]) = false := by decide
theorem test_board_with_bit_seven_refused : Instr.WellFormed (.board 1 0x80 []) = false := by decide
theorem test_board_test_command_refused : Instr.WellFormed (.board 1 0x7E []) = false := by decide
theorem test_board_response_command_refused : Instr.WellFormed (.board 1 0x7F []) = false := by decide
theorem test_app_without_bit_seven_refused : Instr.WellFormed (.app 1 0x7D []) = false := by decide
theorem test_dispatch_of_no_frame_refused : Instr.WellFormed (.dDispatch ⟨2, 0x80, []⟩) = false := by decide

/-! ## Decoding: words written out bit by bit (R100, R104) -/

-- SYNC 0101 1010, LENGTH 0000 0001, COMMAND 0111 1110
theorem test_decode_test : decodeTableWord 24 0b010110100000000101111110 = some (.test 1 []) := by decide
-- SYNC 0101 1010, LENGTH 0000 0001, COMMAND 0111 1111
theorem test_decode_test_response : decodeTableWord 24 0b010110100000000101111111 = some (.testResponse 1 []) := by decide
-- SYNC 0101 1010, LENGTH 0000 0010, COMMAND 0000 0101, payload 1010 1010 above the header
theorem test_decode_board :
    decodeTableWord 32 0b10101010010110100000001000000101 = some (.board 2 0x05 [0xAA]) := by decide
-- X3: 5A 03 83 04 01
theorem test_decode_app :
    decode [0b01011010, 0b00000011, 0b10000011, 0b00000100, 0b00000001] = .ok (.app 3 0x83 [0x04, 0x01]) := by decide
-- V-F15, V-F17, V-F18: no SYNC, no LENGTH, no COMMAND
theorem test_decode_bad_sync : decode [0x5B, 0x01, 0x7E] = .error .badSync := by decide
theorem test_decode_sync_alone : decode [0x5A] = .error .truncated := by decide
theorem test_decode_no_command : decode [0x5A, 0x01] = .error .truncated := by decide
theorem test_decode_empty : decode [] = .error .badSync := by decide

theorem test_decode_led : decodeNamed [0x5A, 0x01, Config.link.cmdLed] = .ok (.led 1 []) := by
  rw [decodeNamed, decode_board (boardCommand_lt 0)]
  simp [refineNamed]
theorem test_decode_lcd_message : decodeNamed [0x5A, 0x01, Config.link.cmdLcdMessage] = .ok (.lcdMessage 1 []) := by
  rw [decodeNamed, decode_board (boardCommand_lt 1)]
  simp [refineNamed, boardCommand_inj]
theorem test_decode_debug_log : decodeNamed [0x5A, 0x01, Config.link.cmdDebugLog] = .ok (.debugLog 1 []) := by
  rw [decodeNamed, decode_board (boardCommand_lt 2)]
  simp [refineNamed, boardCommand_inj]
theorem test_decode_buzzer : decodeNamed [0x5A, 0x01, Config.link.cmdBuzzer] = .ok (.buzzer 1 []) := by
  rw [decodeNamed, decode_board (boardCommand_lt 3)]
  simp [refineNamed, boardCommand_inj]
theorem test_decode_sync_check : decodeNamed [0x5A, 0x01, Config.link.cmdSyncCheck] = .ok (.syncCheck 1 []) := by
  rw [decodeNamed, decode_app (appCommand_ge 0)]
  simp [refineNamed]
theorem test_decode_reset : decodeNamed [0x5A, 0x01, Config.link.cmdReset] = .ok (.reset 1 []) := by
  rw [decodeNamed, decode_app (appCommand_ge 1)]
  simp [refineNamed, appCommand_inj]
theorem test_decode_game_request :
    decodeNamed [0x5A, 0x02, Config.link.cmdGameRequest, 0x01] = .ok (.gameRequest 2 [0x01]) := by
  rw [decodeNamed, decode_app (appCommand_ge 2)]
  simp [refineNamed, appCommand_inj]
-- X3
theorem test_decode_game_move :
    decodeNamed [0x5A, 0x03, Config.link.cmdGameMove, 0x04, 0x01] = .ok (.gameMove 3 [0x04, 0x01]) := by
  rw [decodeNamed, decode_app (appCommand_ge 3)]
  simp [refineNamed, appCommand_inj]
theorem test_decode_ack : decodeNamed [0x5A, 0x01, Config.link.cmdAck] = .ok (.ack 1 []) := by
  rw [decodeNamed, decode_app (appCommand_ge 4)]
  simp [refineNamed, appCommand_inj]
theorem test_decode_nack : decodeNamed [0x5A, 0x01, Config.link.cmdNack] = .ok (.nack 1 []) := by
  rw [decodeNamed, decode_app (appCommand_ge 5)]
  simp [refineNamed, appCommand_inj]

/-! ## The host's two questions, on one row -/

-- X2 as a session that the next step completes: the answer 5A 01 7F is pending
theorem test_step_runs_test :
    (nextOf (step (State.reset.withFetchWord 24 0x5A017E))).map
      (fun t => (t.slave.state, t.slave.txBuf, t.slave.txLen, t.slave.txPending, t.slave.diag)) =
    some (.idle, [(0, 0x5A), (1, 0x01), (2, 0x7F)], 3, true, 0) := by decide +kernel
-- a LENGTH of 0, as the table's row TEST with its free bits at 0: format error
theorem test_step_runs_zero_length :
    (nextOf (step (State.reset.withFetchWord 24 0x5A007E))).map (fun t => (t.slave.state, t.slave.diag)) =
    some (.idle, 0x08) := by decide +kernel

/-! ## Vectors: the frame rows and the parser -/

-- V-D5
theorem test_test_ignores_payload :
    (after (.test 2 [0x99]) State.reset).map (fun t => (t.slave.txBuf, t.slave.txPending)) =
    some ([(0, 0x5A), (1, 0x01), (2, 0x7F)], true) := by decide +kernel
-- V-D4
theorem test_test_rejected_while_pending :
    (after (.test 1 []) (link slavePending Master.reset)).map (fun t => (t.slave.txLen, t.slave.diag)) =
    some (4, 0x10) := by decide +kernel
-- V-D6
theorem test_test_response_is_emitted :
    (after (.testResponse 1 []) State.reset).map (fun t => t.env.emitted) = some [⟨0x7F, []⟩] := by decide +kernel
-- V-D7
theorem test_board_is_emitted :
    (after (.board 2 0x00 [0x01]) State.reset).map (fun t => t.env.emitted) = some [⟨0x00, [0x01]⟩] := by decide +kernel
-- R190: LENGTH 5 with one payload byte is truncated
theorem test_board_truncated :
    (after (.board 5 0x00 [0x01]) State.reset).map (fun t => (t.env.emitted, t.slave.diag)) = some ([], 0x08) := by decide +kernel
-- V-D1
theorem test_app_fills_mailbox :
    (after (.app 3 0x80 [0x04, 0x01]) State.reset).map (fun t => t.mailbox) =
    some ⟨[(0, 0x80), (1, 0x04), (2, 0x01)], 3, true⟩ := by decide +kernel
-- V-F2, V-F4
theorem test_encode :
    (after (.fEncode 0x83 [0x04, 0x01]) State.reset).map (fun t => t.env.parserRet) =
    some (some (.encoded [0x5A, 0x03, 0x83, 0x04, 0x01])) := by decide +kernel
theorem test_encode_too_long :
    (after (.fEncode 0x00 (List.replicate 126 0xAA)) State.reset).map (fun t => t.env.parserRet) =
    some (some .encodeError) := by decide +kernel
-- V-F23, V-F21
theorem test_validate_ignores_surplus :
    (after (.fValidate [0x5A, 0x01, 0x7E, 0x99, 0x98]) State.reset).map (fun t => t.env.parserRet) =
    some (some (.frame ⟨1, 0x7E, []⟩)) := by decide +kernel
theorem test_validate_length_255 :
    (after (.fValidate (0x5A :: 0xFF :: List.replicate 255 0xAA)) State.reset).map (fun t => t.env.parserRet) =
    some (some (.formatError .truncated)) := by decide +kernel

/-! ## Vectors: the slave -/

-- V-H4
theorem test_xfer_rx :
    (after (.xfer 0x5A) (link slaveRx (sender .clock 0))).map
      (fun t => (t.slave.rxBuf, t.slave.rxCount, t.slave.srdy)) = some ([(0, 0x5A)], 1, true) := by decide +kernel
-- V-H5
theorem test_xfer_tx :
    (after (.xfer 0x00) (link slaveTx (receiver .clock 128 0))).map (fun t => (t.env.slaveOut, t.slave.txCount)) =
    some (0x5A, 1) := by decide +kernel
-- V-S1, V-S2
theorem test_init : (after (.sInit true) State.powerOn).map (fun t => t.slave) = some Slave.reset := by decide +kernel
theorem test_init_failure : (after (.sInit false) State.powerOn).map (fun t => t.slave) = some slaveErr := by decide +kernel
-- the worked example of R182
theorem test_tick :
    (after .sTick (link { Slave.reset with now := 41 } Master.reset)).map (fun t => t.slave) =
    some { Slave.reset with now := 42 } := by decide +kernel
-- V-S14, across the wrap of the counter
theorem test_tick_times_out_across_wrap :
    (after .sTick (link { slaveRx with tStart := 0xFFFFFF00, now := 0x000002E7 } (sender .wait 0))).map
      (fun t => (t.slave.state, t.slave.diag, t.slave.srdy)) = some (.idle, 0x02, false) := by decide +kernel
-- V-H3, V-S3
theorem test_poll_idle_opens_rx_when_unannounced :
    (after .sPollIdle (link slavePending (sender .wait 0))).map (fun t => (t.slave.state, t.slave.srdy, t.slave.mrdy)) =
    some (.rx, true, false) := by decide +kernel
theorem test_poll_idle_announces :
    (after .sPollIdle (link slavePending Master.reset)).map (fun t => (t.slave.state, t.slave.mrdy)) =
    some (.idle, true) := by decide +kernel
-- V-S8
theorem test_poll_rx_no_bytes :
    (after .sPollRx (link slaveRx Master.reset)).map (fun t => (t.slave.state, t.slave.diag, t.slave.srdy, t.slave.csAck)) =
    some (.idle, 0x08, false, false) := by decide +kernel
-- V-S9: the wrapped buffer holds 5A 01 7E AA^125 and is accepted as a self-test
theorem test_poll_rx_wrapped_frame_accepted :
    (after .sPollRx (link { slaveRx with
        rxBuf := (0, 0x5A) :: (1, 0x01) :: (2, 0x7E) :: (List.range 125).map (fun k => (k + 3, 0xAA))
        rxCount := 131, rxCursor := 3, diag := 0x01 } Master.reset)).map
      (fun t => (t.slave.state, t.slave.txBuf, t.slave.txPending, t.slave.diag)) =
    some (.idle, [(0, 0x5A), (1, 0x01), (2, 0x7F)], true, 0x01) := by decide +kernel
-- V-S16, V-S17
theorem test_poll_tx_releases :
    (after .sPollTx (link { slaveTx with txCount := 1 } Master.reset)).map (fun t => t.slave) =
    some { Slave.reset with txBuf := slaveTx.txBuf } := by decide +kernel
theorem test_poll_tx_times_out :
    (after .sPollTx (link { slaveTx with tStart := 10, now := 1010 } (sender .idle 0))).map
      (fun t => (t.slave.state, t.slave.diag, t.slave.mrdy, t.slave.txPending)) = some (.idle, 0x04, false, false) := by
  decide +kernel
-- V-S23
theorem test_poll_error :
    (after .sPollError (link slaveErr (sender .wait 0))).map (fun t => t.slave) = some slaveErr := by decide +kernel
-- V-S5, V-S6
theorem test_byte_rx_fills :
    (after (.sByteRx 0x11) (link { slaveRx with rxCount := 127, rxCursor := 127 } Master.reset)).map
      (fun t => (t.slave.rxBuf, t.slave.rxCount, t.slave.rxCursor, t.slave.diag)) =
    some ([(127, 0x11)], 128, 128, 0x00) := by decide +kernel
theorem test_byte_rx_wraps :
    (after (.sByteRx 0x22) (link { slaveRx with rxCount := 128, rxCursor := 128 } Master.reset)).map
      (fun t => (t.slave.rxBuf, t.slave.rxCount, t.slave.rxCursor, t.slave.diag)) =
    some ([(0, 0x22)], 129, 1, 0x01) := by decide +kernel
-- V-S18
theorem test_byte_tx_past_the_end :
    (after (.sByteTx 0x00) (link { slaveTx with txLen := 3, txCount := 3 } Master.reset)).map
      (fun t => (t.slave.txCount, t.env.draws)) = some (4, 1) := by decide +kernel
-- V-H6
theorem test_byte_other :
    (after (.sByteOther 0x5A) State.reset).map (fun t => (t.slave, t.env.draws)) = some (Slave.reset, 1) := by decide +kernel
-- V-S19, V-S20
theorem test_queue :
    (after (.sQueue 0x85 [0x01]) State.reset).map (fun t => (t.slave, t.env.appRet)) =
    some (slavePending, some .queueOk) := by decide +kernel
theorem test_queue_rejected :
    (after (.sQueue 0x86 []) (link slavePending Master.reset)).map (fun t => (t.slave, t.env.appRet)) =
    some ({ slavePending with diag := 0x10 }, some .queueRejected) := by decide +kernel
-- V-S24
theorem test_clrdiag :
    (after (.sClrdiag 0b00010) (link { Slave.reset with diag := 0b01010 } Master.reset)).map (fun t => t.slave.diag) =
    some 0b01000 := by decide +kernel

/-! ## The register view, by hand from the table of R32 -/

-- RX, cs_ack; SRDY and the copy of CS; M_CLOCK of send; CS and the copy of SRDY
theorem test_registers_of_a_write_session :
    (readRegister .sStatus (link slaveRx (sender .clock 0)), readRegister .sLines (link slaveRx (sender .clock 0)),
      readRegister .mStatus (link slaveRx (sender .clock 0)), readRegister .mLines (link slaveRx (sender .clock 0))) =
    (0b00101, 0b101, 0b010, 0b011) := by decide +kernel
-- IDLE with a message pending and announced: TX_PENDING, MRDY, the length, the copy of MRDY
theorem test_registers_of_an_announced_message :
    (readRegister .sStatus (link slaveAnnounced Master.reset), readRegister .sLines (link slaveAnnounced Master.reset),
      readRegister .sTxlen (link slaveAnnounced Master.reset), readRegister .mLines (link slaveAnnounced Master.reset)) =
    (0b01000, 0b010, 4, 0b100) := by decide +kernel

/-! ## Vectors: the master, the dispatcher and the mailbox -/

-- R230 worked example, V-M15
theorem test_master_init :
    (after .mInit (link Slave.reset { sender .wait 0 with now := 7 })).map (fun t => t.master) =
    some { Master.reset with now := 7 } := by decide +kernel
theorem test_master_send_not_enabled :
    refusalOf (exec (.mSend []) (link Slave.reset (sender .wait 0))) = some (.notEnabled "M.SEND") := by decide +kernel
theorem test_master_tick_wraps :
    (after .mTick (link Slave.reset { Master.reset with now := 0xFFFFFFFF })).map (fun t => t.master.now) = some 0 := by
  decide +kernel
-- V-M1
theorem test_master_send :
    (after (.mSend [0x5A, 0x01, 0x7E]) (link Slave.reset { Master.reset with now := 20 })).map (fun t => t.master) =
    some { sender .wait 0 with now := 20, tStart := 20 } := by decide +kernel
-- the worked example of R245
theorem test_master_recv :
    (after (.mRecv 128) (link Slave.reset { Master.reset with now := 50 })).map (fun t => t.master) =
    some { receiver .wait 128 0 with now := 50, tStart := 50 } := by decide +kernel
-- V-M3, V-M5
theorem test_master_wait_times_out :
    (after .mWait (link Slave.reset { sender .wait 0 with tStart := 20, now := 120 })).map
      (fun t => (t.master.cs, t.master.phase, t.env.masterRet)) = some (false, .idle, some .errTimeout) := by decide +kernel
theorem test_master_wait_not_yet_busy :
    (after .mWait (link slaveAnnounced { sender .wait 0 with tStart := 20, now := 25 })).map (fun t => t.master.phase) =
    some .wait := by decide +kernel
-- the worked example of R240, V-M6
theorem test_master_clock_send :
    (after .mClockSend (link { slaveRx with rxCount := 2, rxCursor := 2 } (sender .clock 2))).map
      (fun t => (t.master.idx, t.slave.rxBuf, t.slave.rxCursor)) = some (3, [(2, 0x7E)], 3) := by decide +kernel
theorem test_master_clock_send_done :
    (after .mClockSend (link slaveRx (sender .clock 3))).map (fun t => (t.master.phase, t.slave)) =
    some (.settle, slaveRx) := by decide +kernel
-- V-M9 (LENGTH learned at offset 1), V-M11
theorem test_master_clock_recv :
    (after .mClockRecv (link { slaveTx with txCount := 1 } (receiver .clock 128 1))).map
      (fun t => (t.master.idx, t.master.expected, t.master.rx)) = some (2, 4, [(1, 0x02)]) := by decide +kernel
theorem test_master_clock_recv_no_room :
    (after .mClockRecv (link slaveTx (receiver .clock 0 0))).map (fun t => t.master.phase) = some .settle := by decide +kernel
-- V-M7, V-M10
theorem test_master_settle :
    (after .mSettle (link slaveRx (sender .settle 3))).map (fun t => (t.master.cs, t.master.phase, t.env.masterRet)) =
    some (false, .idle, some .sendOk) := by decide +kernel
theorem test_master_settle_recv :
    (after .mSettle (link slaveTx (receiver .settle 2 2))).map (fun t => t.env.masterRet) =
    some (some (.recvOk 2)) := by decide +kernel
-- V-M14
theorem test_master_release :
    (after .mRelease (link slaveTx (sender .idle 0))).map (fun t => t.master) =
    some { sender .idle 0 with cs := false } := by decide +kernel
-- V-D9
theorem test_dispatch_overwrites :
    (nextOf (exec (.dDispatch ⟨3, 0x83, [0x05, 0x01]⟩)
      { State.reset with mailbox := ⟨[(0, 0x83), (1, 0x04), (2, 0x01)], 3, true⟩ })).map (fun t => (t.mailbox, t.slave.diag)) =
    some (⟨[(0, 0x83), (1, 0x05), (2, 0x01)], 3, true⟩, 0) := by decide +kernel
-- V-D14
theorem test_dispatch_full_mailbox :
    (after (.dDispatch ⟨126, 0x80, List.replicate 125 0xAA⟩) State.reset).map (fun t => t.mailbox.len) = some 126 := by
  decide +kernel
-- V-D10, V-D11, V-D12
theorem test_check :
    (nextOf (exec .dCheck { State.reset with mailbox := ⟨[(0, 0x83), (1, 0x04), (2, 0x01)], 3, true⟩ })).map
      (fun t => t.env.appRet) = some (some (.checked (some 0x83))) := by decide +kernel
theorem test_get :
    (nextOf (exec .dGet { State.reset with mailbox := ⟨[(0, 0x83), (1, 0x04), (2, 0x01)], 3, true⟩ })).map
      (fun t => (t.env.appRet, t.mailbox.new)) = some (some (.got [0x83, 0x04, 0x01]), false) := by decide +kernel
theorem test_get_empty : (after .dGet State.reset).map (fun t => t.env.appRet) = some (some (.got [])) := by decide +kernel

/-! ## Witnesses: for each obligation with hypotheses, a state and operands that meet them -/

/-- A canonical buffer within a capacity, as one decidable check. -/
def bufferOk (cap : Nat) (m : Memory) : Bool := decide m.wf && m.all fun c => decide (c.1 < cap)

theorem bufferOk_iff {cap : Nat} {m : Memory} : bufferOk cap m = true ↔ m.wf ∧ Memory.within cap m := by
  simp [bufferOk, Memory.within]

/-- The invariant of a state put together from two sides with a fresh mailbox. -/
theorem link_inv {x : Slave} {m : Master} (hx : SlaveInv x) (hm : MasterInv m) (h1 : bufferOk 128 x.rxBuf = true)
    (h2 : bufferOk 128 x.txBuf = true) (h3 : m.rx.wf) : LinkInv (link x m) := by
  obtain ⟨a, b⟩ := bufferOk_iff.1 h1
  obtain ⟨c, d⟩ := bufferOk_iff.1 h2
  exact ⟨fun _ => ⟨hx, fun h => Bool.noConfusion h⟩, fun _ => hm, a, b, c, d,
    (by decide : Mailbox.reset.buf.wf), fun _ h => absurd h List.not_mem_nil, h3⟩

/-- The pending message of these tests is the frame of a command and a payload. -/
theorem pending_is_frame {x : Slave} (h1 : x.txBuf = slavePending.txBuf) (h2 : x.txLen = 4) : pendingIsFrame x :=
  ⟨0x85, [0x01], by rw [h1, h2]; decide +kernel⟩

theorem idle_inv : SlaveInv Slave.reset :=
  ⟨by simp [stateInv, Slave.reset], fun h => Bool.noConfusion h, by decide⟩
theorem rx_inv : SlaveInv slaveRx :=
  ⟨by simp [stateInv, slaveRx, Slave.reset, cursorFollows], fun h => Bool.noConfusion h, by decide⟩
theorem announced_inv : SlaveInv slaveAnnounced :=
  ⟨by simp [stateInv, slaveAnnounced, slavePending, Slave.reset], fun _ => pending_is_frame rfl rfl, by decide⟩
theorem pending_inv : SlaveInv slavePending :=
  ⟨by simp [stateInv, slavePending, Slave.reset], fun _ => pending_is_frame rfl rfl, by decide⟩
theorem tx_inv : SlaveInv slaveTx :=
  ⟨by simp [stateInv, slaveTx, slaveAnnounced, slavePending, Slave.reset], fun _ => pending_is_frame rfl rfl, by decide⟩
theorem master_idle_inv : MasterInv { Master.reset with now := 7 } := by simp [MasterInv, Master.reset]
theorem sender_wait_inv : MasterInv (sender .wait 0) := by simp [MasterInv, sender, Master.reset]
theorem sender_clock_inv : MasterInv (sender .clock 0) := by simp [MasterInv, sender, Master.reset]
theorem full_inv : SlaveInv { slaveRx with rxCount := 128, rxCursor := 128 } :=
  ⟨by simp [stateInv, slaveRx, Slave.reset, cursorFollows], fun h => Bool.noConfusion h, by decide⟩
theorem sender_settle_inv : MasterInv (sender .settle 3) := by simp [MasterInv, sender, Master.reset]

theorem test_witness_EncodedFramesDecode :
    (Instr.test 1 []).WellFormed = true ∧ encode (.test 1 []) = some [0x5A, 0x01, 0x7E] ∧
    refineNamed (.test 1 []) = .test 1 [] := by decide
theorem test_witness_EncodedFramesDecode_longest :
    (Instr.nack 254 (List.replicate 253 0xAA)).WellFormed = true ∧
    encode (.nack 254 (List.replicate 253 0xAA)) =
      some (0x5A :: 0xFE :: Config.link.cmdNack :: List.replicate 253 0xAA) ∧
    refineNamed (.nack 254 (List.replicate 253 0xAA)) = .nack 254 (List.replicate 253 0xAA) :=
  ⟨by decide +kernel, rfl, rfl⟩
theorem test_witness_DecodedFramesReencode : decode [0x5A, 0x00, 0x05] = .ok (.board 0 0x05 []) := by decide
theorem test_witness_HeaderDecodesByCommandAlone : State.reset.slave.inited = true := rfl
theorem test_witness_ValidateInvertsEncode :
    ([] : List Byte).length ≤ 125 ∧ (List.replicate 125 0xAA : List Byte).length ≤ 125 := by simp
-- V-F22, the largest frame the parser accepts
theorem test_witness_ValidatedFrameLengths :
    validateFrame (0x5A :: 0xFE :: 0x99 :: List.replicate 253 0xAA) = .ok ⟨254, 0x99, List.replicate 253 0xAA⟩ := by
  decide +kernel
-- V-F13, the largest frame that fits a buffer
theorem test_witness_ReencodeGivesThePrefix :
    validateFrame (0x5A :: 0x7E :: 0x00 :: List.replicate 125 0xAA) = .ok ⟨126, 0x00, List.replicate 125 0xAA⟩ := by
  decide +kernel
theorem test_witness_TestFrameQueuesTheAnswer :
    State.reset.slave.inited = true ∧ lengthFits 126 (List.replicate 125 0x00) = true ∧ (126 : Byte).toNat ≤ 126 ∧
    State.reset.slave.txBuf.wf := ⟨rfl, by decide +kernel, by decide, by decide⟩
theorem test_witness_BoardFramesEmitTheirCommand :
    State.reset.slave.inited = true ∧ lengthFits 1 [] = true ∧ (1 : Byte).toNat ≤ 126 ∧ isBoardCommand 0x7D = true := by
  decide
theorem test_witness_ApplicationFramesFillTheMailbox :
    State.reset.slave.inited = true ∧ lengthFits 1 [] = true ∧ (1 : Byte).toNat ≤ 126 ∧ isAppCommand 0x80 = true ∧
    isAppCommand 0xFF = true ∧ State.reset.mailbox.buf.wf := by decide
-- each clause: LENGTH 0, LENGTH 255, a byte short, and whole but one byte more than a buffer holds
theorem test_witness_MalformedFramesAreDiscarded :
    State.reset.slave.inited = true ∧ encode (.test 0 []) = some [0x5A, 0x00, 0x7E] ∧
    encode (.test 255 []) = some [0x5A, 0xFF, 0x7E] ∧ encode (.app 2 0x80 []) = some [0x5A, 0x02, 0x80] ∧
    encode (.app 127 0x80 (List.replicate 126 0)) = some (0x5A :: 0x7F :: 0x80 :: List.replicate 126 0) ∧
    min (0x5A :: 0x7F :: 0x80 :: List.replicate 126 0 : List Byte).length 128 < 2 + (0x7F : Byte).toNat :=
  ⟨rfl, rfl, rfl, rfl, rfl, by simp⟩
theorem test_witness_FrameRowsAreDispatches :
    State.reset.slave.inited = true ∧ encode (.app 1 0x80 []) = some [0x5A, 0x01, 0x80] ∧
    [0x5A, 0x01, (0x80 : Byte)].length ≤ 128 ∧ validateFrame [0x5A, 0x01, 0x80] = .ok ⟨1, 0x80, []⟩ := by decide
-- the three routes at the commands where they meet
theorem test_witness_DispatchRoutesByCommand :
    State.reset.slave.inited = true ∧ Frame.WellFormed ⟨126, 0x80, List.replicate 125 0⟩ = true ∧
    Frame.WellFormed ⟨1, 0x7E, []⟩ = true ∧ Frame.WellFormed ⟨1, 0x7F, []⟩ = true ∧
    Frame.WellFormed ⟨1, 0x7D, []⟩ = true ∧ State.reset.mailbox.buf.wf := by decide +kernel
theorem test_witness_DispatchOutsideItsOperands :
    State.reset.slave.inited = true ∧ Frame.WellFormed ⟨0, 0x80, []⟩ = false ∧
    Frame.WellFormed ⟨127, 0x80, List.replicate 126 0⟩ = true := by decide +kernel
theorem test_witness_TickAdvancesThenPolls :
    (link slaveTx Master.reset).slave.inited = true ∧ (link slaveErr Master.reset).slave.inited = true := by decide
theorem test_witness_IdlePollOpensOrAnnounces :
    (link slavePending (sender .wait 0)).slave.inited = true ∧ (link slavePending (sender .wait 0)).slave.state = .idle := by
  decide
-- both outcomes: bytes that are a frame, and no bytes
theorem test_witness_RxPollCompletesSession :
    let s := link { slaveRx with rxBuf := [(0, 0x5A), (1, 0x01), (2, 0x7E)], rxCount := 3, rxCursor := 3 } Master.reset
    s.slave.inited = true ∧ s.slave.state = .rx ∧ csLine s = false ∧ validateFrame (heldBytes s) = .ok ⟨1, 0x7E, []⟩ ∧
    validateFrame (heldBytes (link slaveRx Master.reset)) = .error .badSync := by decide +kernel
-- V-S11, V-S12: elapsed 999 and 1000
theorem test_witness_RxPollWithChipSelectAsserted :
    let s := link { slaveRx with tStart := 5, now := 1005 } (sender .wait 0)
    s.slave.inited = true ∧ s.slave.state = .rx ∧ csLine s = true ∧ (s.slave.now - s.slave.tStart).toNat = 1000 := by
  decide
theorem test_witness_TxPollOutcomes :
    (link slaveTx (sender .idle 0)).slave.inited = true ∧ (link slaveTx (sender .idle 0)).slave.state = .tx := by decide
theorem test_witness_NothingHappensOutsideSessions :
    (link slaveErr Master.reset).slave.inited = true ∧ (link slaveErr Master.reset).slave.state = .error ∧
    State.reset.slave.inited = true ∧ State.reset.slave.state = .idle := by decide
theorem test_witness_ReceivedByteIsStored :
    let s := link { slaveRx with rxCount := 128, rxCursor := 128 } Master.reset
    s.slave.inited = true ∧ s.slave.state = .rx ∧ s.slave.rxBuf.wf := by decide
theorem test_witness_TransmittedByteIsThePendingFrames :
    let s := link { slaveTx with txCount := 3 } Master.reset
    s.slave.inited = true ∧ s.slave.state = .tx ∧ s.slave.txCount.toNat + 1 = s.slave.txLen.val := by decide
theorem test_witness_ExchangeRunsTheCallback :
    let s := link slaveRx (sender .clock 0)
    s.master.inited = true ∧ s.master.phase = .clock ∧ s.master.cs = true := by decide
theorem test_witness_QueueOperationOutcomes :
    (link slavePending Master.reset).slave.inited = true ∧ (link slavePending Master.reset).slave.txBuf.wf := by decide
theorem test_witness_ClearDiagClearsMaskedFlags : State.reset.slave.inited = true := rfl
theorem test_witness_MasterInitAndTick : State.reset.master.inited = true := rfl
theorem test_witness_OperationsStartByAssertingChipSelect :
    State.reset.master.inited = true ∧ State.reset.master.phase = .idle := by decide
theorem test_witness_WaitOutcomes :
    (link slaveAnnounced (sender .wait 0)).master.inited = true ∧ (link slaveAnnounced (sender .wait 0)).master.phase = .wait := by
  decide
-- the last byte, and all bytes clocked
theorem test_witness_SendClocksOneByte : ∀ k ∈ [2, 3],
    (link slaveRx (sender .clock k)).master.inited = true ∧ (sender .clock k).phase = .clock ∧ (sender .clock k).op = .send ∧
    (sender .clock k).cs = true ∧ (sender .clock k).n = (sender .clock k).tx.length ∧ (sender .clock k).idx ≤ 3 := by decide
-- one byte below the bound, and at the bound
theorem test_witness_ReceiveClocksOneByte : ∀ k ∈ [1, 2],
    (link slaveTx (receiver .clock 128 k)).master.inited = true ∧ (receiver .clock 128 k).phase = .clock ∧
    (receiver .clock 128 k).op = .recv ∧ (receiver .clock 128 k).cs = true ∧ (receiver .clock 128 k).rx.wf ∧
    (receiver .clock 128 k).idx ≤ min (receiver .clock 128 k).expected 128 := by decide
theorem test_witness_SettleAndReleaseDeassertChipSelect :
    (link slaveRx (sender .settle 3)).master.inited = true ∧ (sender .settle 3).phase = .settle ∧
    (sender .idle 0).phase = .idle ∧ (link slaveTx (sender .idle 0)).master.inited = true := by decide
theorem test_witness_MailboxOperations : State.reset.slave.inited = true := rfl
theorem test_witness_MailboxHandsOverOnce :
    State.reset.slave.inited = true ∧ Frame.WellFormed ⟨126, 0xFF, List.replicate 125 0⟩ = true ∧
    (0x80 : Byte) ≤ 0xFF ∧ State.reset.mailbox.buf.wf := by decide +kernel
-- each clause: before both initialisations; either side before its own with the other up; a state and a phase between
theorem test_witness_DisabledOperationsAreRefused :
    enabled .sTick State.powerOn = false ∧ State.powerOn.slave.inited = false ∧ State.powerOn.master.inited = false ∧
    enabled .mInit State.powerOn = true ∧
    (link { Slave.reset with inited := false } Master.reset).slave.inited = false ∧
    (link Slave.reset { Master.reset with inited := false }).master.inited = false ∧
    slaveRx.state ≠ .idle ∧ slaveRx.state ≠ .tx ∧ slaveRx.state ≠ .error ∧ slaveTx.state ≠ .rx ∧
    (sender .wait 0).phase ≠ .idle ∧ (sender .wait 0).phase ≠ .clock ∧ (sender .wait 0).phase ≠ .settle ∧
    (sender .clock 0).phase ≠ .wait ∧ (sender .clock 0).op ≠ .recv ∧ (receiver .clock 1 0).op ≠ .send ∧
    ({ sender .clock 0 with cs := false } : Master).cs = false := by decide +kernel
theorem test_witness_ElapsedTimeIsModular : 0 < 2 ^ 32 ∧ 2 ^ 32 - 1 < 2 ^ 32 := by decide
-- a script and an empty one; each event's condition; a row that is no event and an event whose condition fails
theorem test_witness_StepRunsTheNextEvent :
    (∀ i, ({ State.reset with env := { Env.reset with script := [i] } } : State).env.script = i :: []) ∧
    State.reset.env.script = [] ∧ State.reset.slave.inited = true ∧ State.reset.master.inited = true ∧
    State.reset.master.phase = .idle ∧ (sender .wait 0).phase = .wait ∧ (sender .clock 0).phase = .clock ∧
    (sender .clock 0).op = .send ∧ (receiver .clock 1 0).phase = .clock ∧ (receiver .clock 1 0).op = .recv ∧
    (sender .settle 3).phase = .settle ∧ State.powerOn.slave.inited = false :=
  ⟨fun _ => rfl, rfl, rfl, rfl, rfl, rfl, rfl, rfl, rfl, rfl, rfl, rfl⟩
-- R10: the parser functions are no events, and a micro-step outside its phase does not happen
theorem test_step_runs_only_events :
    nextOf (step { State.reset with env := { Env.reset with script := [.fValidate []] } }) = some State.reset ∧
    nextOf (step { State.reset with env := { Env.reset with script := [.mWait] } }) = some State.reset := by decide +kernel
theorem test_witness_StepRunsTheDecodedFrame :
    let s := State.reset.withFetchWord 24 0x5A017E
    s.slave.inited = true ∧ s.slave.state = .rx ∧ csLine s = false ∧ s.env.script = [.sTick] ∧
    decode (heldBytes s) = .ok (.test 1 []) := by decide +kernel
-- a tick in TX; and byte 129 of a session, by which the overflow is seen
theorem test_witness_StepKeepsLinkInv :
    let s : State := { link slaveTx (sender .wait 0) with env := { Env.reset with script := [.sTick] } }
    let full : State := { link { slaveRx with rxCount := 128, rxCursor := 128 } (sender .clock 0) with
      env := { Env.reset with script := [.mClockSend] } }
    LinkInv s ∧ CursorInv false s ∧ (nextOf (step s)).isSome = true ∧
    LinkInv full ∧ CursorInv false full ∧ CursorInv true full ∧
    (nextOf (step full)).map (overflowSeen false full) = some true :=
  ⟨link_inv tx_inv sender_wait_inv (by decide) (by decide) (by decide), fun _ _ => rfl, by decide +kernel,
    link_inv full_inv sender_clock_inv (by decide) (by decide) (by decide), fun _ _ => rfl, fun _ _ => rfl,
    by decide +kernel⟩
theorem test_witness_StepNeverStops : LinkInv (link slaveRx (sender .wait 0)) :=
  link_inv rx_inv sender_wait_inv (by decide) (by decide) (by decide)
-- an announced message, an open RX session, an open TX session
theorem test_witness_InvariantGivesTheStateLaws :
    LinkInv (link slaveAnnounced { Master.reset with now := 7 }) ∧ LinkInv (link slaveRx (sender .wait 0)) ∧
    LinkInv (link slaveTx (sender .wait 0)) ∧ slaveTx.inited = true ∧
    CursorInv false (link slaveAnnounced { Master.reset with now := 7 }) ∧ CursorInv false (link slaveRx (sender .wait 0)) ∧
    CursorInv true (link slaveTx (sender .wait 0)) :=
  ⟨link_inv announced_inv master_idle_inv (by decide) (by decide) (by decide),
    link_inv rx_inv sender_wait_inv (by decide) (by decide) (by decide),
    link_inv tx_inv sender_wait_inv (by decide) (by decide) (by decide), rfl, fun _ _ => rfl, fun _ _ => rfl,
    fun _ _ => rfl⟩
-- a send, a receive of a frame whose LENGTH is 0, a receive into one byte
theorem test_witness_SettledOperationsAreWhole :
    LinkInv (link slaveRx (sender .settle 3)) ∧ LinkInv (link slaveTx (receiver .settle 128 2)) ∧
    LinkInv (link slaveTx (receiver .settle 1 1)) ∧ (sender .settle 3).phase = .settle ∧
    (receiver .settle 1 1).phase = .settle ∧ (receiver .settle 1 1).inited = true :=
  ⟨link_inv rx_inv sender_settle_inv (by decide) (by decide) (by decide),
    link_inv tx_inv (by simp [MasterInv, receiver, Master.reset, Memory.unlisted]) (by decide) (by decide) (by decide),
    link_inv tx_inv (by simp [MasterInv, receiver, Master.reset]) (by decide) (by decide) (by decide), rfl, rfl, rfl⟩
theorem test_witness_OnlyTickAndInitChangeLinkState :
    (nextOf (step { link slavePending (sender .wait 0) with env := { Env.reset with script := [.sTick] } })).map
      (fun t => t.slave.state) = some .rx ∧ slavePending.state = .idle := by decide +kernel
theorem test_witness_SlaveTransitionTable :
    (link slaveRx Master.reset).slave.inited = true ∧ (link slaveErr Master.reset).slave.inited = true := by decide
-- MRDY rises, MRDY falls
theorem test_witness_MrdyMovesOnlyAsAnnounced :
    let s (x : Slave) : State := { link x { Master.reset with now := 7 } with env := { Env.reset with script := [.sTick] } }
    LinkInv (s slavePending) ∧ LinkInv (s slaveTx) ∧
    (nextOf (step (s slavePending))).map (fun t => t.slave.mrdy) = some true ∧
    (nextOf (step (s slaveTx))).map (fun t => t.slave.mrdy) = some false :=
  ⟨link_inv pending_inv master_idle_inv (by decide) (by decide) (by decide),
    link_inv tx_inv master_idle_inv (by decide) (by decide) (by decide), by decide +kernel, by decide +kernel⟩
theorem test_witness_DiagFlagsAreSticky :
    (nextOf (step { link { Slave.reset with diag := 0x01 } Master.reset with
      env := { Env.reset with script := [.sClrdiag 1] } })).map (fun t => diagFlag t.slave.diag .rxOverflow) = some false ∧
    diagFlag 0x01 .rxOverflow = true := by decide +kernel
theorem test_witness_ContextsWriteTheirOwnState :
    (after .mTick State.reset).isSome = true ∧ (after .sTick State.reset).isSome = true ∧
    (after (.app 1 0x80 []) State.reset).isSome = true ∧
    (after .mClockSend (link slaveRx (sender .clock 0))).isSome = true := by decide +kernel
theorem test_witness_DirectionAgreement :
    LinkInv (link slaveTx (sender .wait 0)) ∧ srdyLine (link slaveTx (sender .wait 0)) = true ∧
    LinkInv (link slaveRx (sender .wait 0)) ∧ srdyLine (link slaveRx (sender .wait 0)) = true :=
  ⟨link_inv tx_inv sender_wait_inv (by decide) (by decide) (by decide), by decide,
    link_inv rx_inv sender_wait_inv (by decide) (by decide) (by decide), by decide⟩
theorem test_witness_ReceivedBytesWrapInTheBuffer :
    (link slaveRx Master.reset).slave.inited = true ∧ slaveRx.state = .rx ∧ slaveRx.rxCount = 0 ∧ slaveRx.rxCursor = 0 ∧
    slaveRx.rxBuf.wf ∧ Memory.within 128 slaveRx.rxBuf := ⟨rfl, rfl, rfl, rfl, by decide, fun _ h => by cases h⟩
theorem test_witness_StuckChipSelectRecovers :
    (link slaveAnnounced (sender .wait 0)).slave.inited = true ∧ slaveAnnounced.state = .idle ∧
    csLine (link slaveAnnounced (sender .wait 0)) = true := by decide
theorem test_witness_MasterWriteSessionCarriesTheBytes :
    let s := link Slave.reset { Master.reset with now := 7 }
    LinkInv s ∧ s.slave.inited = true ∧ s.master.inited = true ∧ s.slave.state = .idle ∧ s.slave.mrdy = false ∧
    s.master.phase = .idle ∧ (List.replicate 128 0xAA : List Byte).length ≤ 128 :=
  ⟨link_inv idle_inv master_idle_inv (by decide) (by decide) (by decide), rfl, rfl, rfl, rfl, rfl, by simp⟩
theorem test_witness_MasterReadSessionReturnsTheMessage :
    let s := link slaveAnnounced { Master.reset with now := 7 }
    LinkInv s ∧ s.slave.inited = true ∧ s.master.inited = true ∧ s.slave.state = .idle ∧ s.slave.mrdy = true ∧
    s.master.phase = .idle ∧ s.slave.txLen.val ≤ 4 :=
  ⟨link_inv announced_inv master_idle_inv (by decide) (by decide) (by decide), rfl, rfl, rfl, rfl, rfl, by decide⟩
theorem test_witness_BusyCollision :
    let s := link slaveAnnounced { Master.reset with now := 7 }
    LinkInv s ∧ s.slave.inited = true ∧ s.master.inited = true ∧ s.slave.state = .idle ∧ s.slave.mrdy = true ∧
    s.master.phase = .idle :=
  ⟨link_inv announced_inv master_idle_inv (by decide) (by decide) (by decide), rfl, rfl, rfl, rfl, rfl⟩
theorem test_witness_UnansweredWaitTimesOut :
    let s := link slaveErr { sender .wait 0 with tStart := 20, now := 20 }
    s.master.inited = true ∧ s.master.phase = .wait ∧ s.master.now = s.master.tStart ∧ srdyLine s = false := by decide

end Sys2Proof.Tests
end

/-! PROOFS. The scope of the model: its parameters meet their constraints (R8), what is not enabled is refused by name
(R10, R181, R230, R232), and a step is the environment's next event, run whole (R10, R75). -/

namespace Sys2Proof.Machine

/-! ### Parameters -/

/-- The named board commands are the first four places of the open numbering (R107). -/
theorem boardNames_eq : Config.link.boardNames = [0, 1, 2, 3].map Config.boardCommand := rfl

/-- The named application messages are the first six places of the open numbering (R107). -/
theorem appNames_eq : Config.link.appNames = [0, 1, 2, 3, 4, 5].map Config.appCommand := rfl

/-- The named board commands lie below the self-test commands (R7). -/
theorem boardNames_le : ∀ b ∈ Config.link.boardNames, b ≤ 0x7D := by
  rw [boardNames_eq, List.forall_mem_map]
  intro k _
  have := boardCommand_lt k
  bv_omega

/-- The named application messages have bit 7 set (R7). -/
theorem appNames_ge : ∀ b ∈ Config.link.appNames, 0x80 ≤ b := by
  rw [appNames_eq, List.forall_mem_map]
  intro k _
  have := appCommand_ge k
  bv_omega

/-- The named board commands are distinct, because the numbering is injective (R7). -/
theorem boardNames_nodup : Config.link.boardNames.Nodup := by
  rw [boardNames_eq]
  exact List.Nodup.map (fun _ _ => boardCommand_inj.1) (by decide)

/-- The named application messages are distinct, because the numbering is injective (R7). -/
theorem appNames_nodup : Config.link.appNames.Nodup := by
  rw [appNames_eq]
  exact List.Nodup.map (fun _ _ => appCommand_inj.1) (by decide)

/-- Settles O1: the constraints between given values are evaluated, those on the open ones hold of any numbering. -/
theorem parametersSatisfyTheirConstraints : Obligations.ParametersSatisfyTheirConstraints := by
  refine ⟨?_, ?_, ?_, ?_, ?_, ?_, ?_, boardNames_le, appNames_ge, boardNames_nodup, appNames_nodup⟩ <;> decide

/-! ### What is not enabled is refused -/

/-- The name by which an instruction is refused where it is not enabled. The four instructions that are enabled in every
state have a name that is never used. -/
def refusalName : Instr → String
  | .test .. => "TEST"
  | .testResponse .. => "TEST_RESPONSE"
  | .board .. => "BOARD"
  | .app .. => "APP"
  | .led .. => "LED"
  | .lcdMessage .. => "LCD_MESSAGE"
  | .debugLog .. => "DEBUG_LOG"
  | .buzzer .. => "BUZZER"
  | .syncCheck .. => "SYNC_CHECK"
  | .reset .. => "RESET"
  | .gameRequest .. => "GAME_REQUEST"
  | .gameMove .. => "GAME_MOVE"
  | .ack .. => "ACK"
  | .nack .. => "NACK"
  | .fEncode .. => "F.ENCODE"
  | .fValidate .. => "F.VALIDATE"
  | .xfer .. => "XFER"
  | .sInit .. => "S.INIT"
  | .sTick => "S.TICK"
  | .sPollIdle => "S.POLL.IDLE"
  | .sPollRx => "S.POLL.RX"
  | .sPollTx => "S.POLL.TX"
  | .sPollError => "S.POLL.ERROR"
  | .sByteRx .. => "S.BYTE.RX"
  | .sByteTx .. => "S.BYTE.TX"
  | .sByteOther .. => "S.BYTE.OTHER"
  | .sQueue .. => "S.QUEUE"
  | .sClrdiag .. => "S.CLRDIAG"
  | .mInit => "M.INIT"
  | .mTick => "M.TICK"
  | .mSend .. => "M.SEND"
  | .mRecv .. => "M.RECV"
  | .mWait => "M.WAIT"
  | .mClockSend => "M.CLOCK.SEND"
  | .mClockRecv => "M.CLOCK.RECV"
  | .mSettle => "M.SETTLE"
  | .mRelease => "M.RELEASE"
  | .dDispatch .. => "D.DISPATCH"
  | .dCheck => "D.CHECK"
  | .dGet => "D.GET"

/-- Every instruction is a body behind the guard of its own enabling condition (R10). -/
theorem exec_guarded (i : Instr) (s : State) :
    ∃ body, exec i s = whenEnabled (enabled i s) (refusalName i) body := by
  cases i <;> exact ⟨_, rfl⟩

/-- An instruction that is not enabled is refused by its own name. -/
theorem exec_disabled {i : Instr} {s : State} (h : enabled i s = false) :
    exec i s = .refused (.notEnabled (refusalName i)) := by
  obtain ⟨body, hbody⟩ := exec_guarded i s
  rw [hbody, h, whenEnabled_false]

/-- Where a master micro-step is not enabled: before `M.INIT` and outside its phase (R230, R232). -/
theorem inPhase_eq_false {p : Phase} {s : State} :
    inPhase p s = false ↔ s.master.inited = false ∨ s.master.phase ≠ p := by
  rw [← Bool.not_eq_true, inPhase_iff, not_and_or, Bool.not_eq_true]

/-- Where a clocking micro-step is not enabled: outside `M_CLOCK`, and for the other operation (R232). -/
theorem clocking_eq_false {op : MasterOp} {s : State} :
    clocking op s = false ↔ s.master.inited = false ∨ s.master.phase ≠ .clock ∨ s.master.op ≠ op := by
  rw [← Bool.not_eq_true, clocking_iff, not_and_or, not_and_or, Bool.not_eq_true]

/-- Where a poll or callback row is not enabled: before `S.INIT` and outside its link state (R183, R195). -/
theorem slaveIn_eq_false {x : LinkState} {s : State} :
    slaveIn x s = false ↔ s.slave.inited = false ∨ s.slave.state ≠ x := by
  rw [← Bool.not_eq_true, slaveIn_iff, not_and_or, Bool.not_eq_true]

/-- Where `XFER` is not enabled: outside `M_CLOCK`, and with chip-select deasserted (R165). -/
theorem xfer_disabled {b : Byte} {s : State}
    (h : s.master.inited = false ∨ s.master.phase ≠ .clock ∨ s.master.cs = false) : enabled (.xfer b) s = false := by
  rw [← or_assoc, ← inPhase_eq_false] at h
  exact Bool.and_eq_false_iff.2 h

/-- The callback outside a session is not enabled inside one (R195, R198). -/
theorem sByteOther_disabled {b : Byte} {s : State}
    (h : s.slave.inited = false ∨ s.slave.state = .rx ∨ s.slave.state = .tx) : enabled (.sByteOther b) s = false := by
  refine Bool.or_eq_false_iff.2 ⟨slaveIn_eq_false.2 (h.imp_right ?_), slaveIn_eq_false.2 (h.imp_right ?_)⟩ <;>
    rintro (h | h) <;> simp [h]

/-- Before both initialisations only they and the parser functions are enabled (R130, R181, R230). -/
theorem enabled_before_init {i : Instr} {s : State} (hs : s.slave.inited = false) (hm : s.master.inited = false)
    (h : enabled i s = true) :
    (∃ ok, i = .sInit ok) ∨ i = .mInit ∨ (∃ c p, i = .fEncode c p) ∨ ∃ bytes, i = .fValidate bytes := by
  have slave_down : slaveUp s = false := hs
  have master_down : masterUp s = false := hm
  cases i
  case sInit | mInit | fEncode | fValidate => simp
  -- every other condition asks for one of the two sides
  all_goals simp [enabled, slaveIn, clocking, inPhase, slave_down, master_down] at h

/-- Settles O39: every instruction stands behind its own enabling condition, so each clause is the place where that
condition fails. -/
theorem disabledOperationsAreRefused : Obligations.DisabledOperationsAreRefused := by
  refine ⟨fun i s h => ⟨refusalName i, exec_disabled h⟩, fun i s => enabled_before_init, ?_⟩
  intro s len c b p bytes mask cap f
  refine ⟨fun down => ?beforeSInit, fun h => exec_disabled (slaveIn_eq_false.2 h), fun h => ?outsideRx, fun h => ?outsideTx,
    fun h => exec_disabled (slaveIn_eq_false.2 h), fun h => exec_disabled (sByteOther_disabled h),
    fun down => exec_disabled down, fun h => ?outsideIdle, fun h => exec_disabled (inPhase_eq_false.2 h),
    fun h => exec_disabled (clocking_eq_false.2 h), fun h => exec_disabled (clocking_eq_false.2 h),
    fun h => exec_disabled (xfer_disabled h), fun h => exec_disabled (inPhase_eq_false.2 h)⟩
  case beforeSInit => and_intros <;> exact exec_disabled down
  case outsideRx | outsideTx => constructor <;> exact exec_disabled (slaveIn_eq_false.2 h)
  case outsideIdle => and_intros <;> exact exec_disabled (inPhase_eq_false.2 h)

/-! ### The step -/

/-- The events of R10, each with the condition under which the environment may choose it. -/
def EventEnabled (i : Instr) (s : State) : Prop :=
  (∃ ok, i = .sInit ok) ∨ i = .mInit ∨
  (s.slave.inited = true ∧
    (i = .sTick ∨ (∃ c p, i = .sQueue c p) ∨ (∃ mask, i = .sClrdiag mask) ∨ i = .dCheck ∨ i = .dGet)) ∨
  (s.master.inited = true ∧
    (i = .mTick ∨
      (s.master.phase = .idle ∧ ((∃ bytes, i = .mSend bytes) ∨ (∃ cap, i = .mRecv cap) ∨ i = .mRelease)) ∨
      (s.master.phase = .wait ∧ i = .mWait) ∨
      (s.master.phase = .clock ∧ s.master.op = .send ∧ i = .mClockSend) ∨
      (s.master.phase = .clock ∧ s.master.op = .recv ∧ i = .mClockRecv) ∨
      (s.master.phase = .settle ∧ i = .mSettle)))

/-- The model's test for running a choice is R10's table. -/
theorem eventEnabled_iff {i : Instr} {s : State} :
    EventEnabled i s ↔ (isEvent i && enabled i s) = true := by
  unfold EventEnabled
  cases i
  case sInit | mInit => simp [isEvent, enabled]
  case sTick | sQueue | sClrdiag | dCheck | dGet => simp [isEvent, enabled, slaveUp]
  case mTick => simp [isEvent, enabled, masterUp]
  case mSend | mRecv | mRelease | mWait | mSettle => simp [isEvent, enabled, inPhase_iff]
  case mClockSend | mClockRecv => simp [isEvent, enabled, clocking_iff]
  -- what is left is part of an event, and none by itself
  all_goals simp [isEvent]

/-- Whether an instruction is enabled depends on the two sides alone. -/
theorem enabled_congr {s t : State} (hs : t.slave = s.slave) (hm : t.master = s.master) (i : Instr) :
    enabled i t = enabled i s := by
  cases i <;> simp only [enabled, slaveIn, clocking, inPhase, slaveUp, masterUp, hs, hm]

/-- Making the choice enables and disables nothing. -/
@[simp] theorem enabled_afterChoice (i : Instr) (s : State) : enabled i (afterChoice s) = enabled i s := by
  obtain ⟨hslave, -, hmaster⟩ := afterChoice_link s
  exact enabled_congr hslave hmaster i

/-- A step runs the next choice, with that choice used up, if it is an enabled event. -/
theorem step_of_eventEnabled {s : State} (h : EventEnabled (nextEvent s) s) :
    step s = exec (nextEvent s) (afterChoice s) := by
  rw [step, enabled_afterChoice, if_pos (eventEnabled_iff.1 h)]

/-- A step uses up a choice that is no enabled event, and does nothing else. -/
theorem step_of_not_eventEnabled {s : State} (h : ¬ EventEnabled (nextEvent s) s) : step s = .next (afterChoice s) := by
  rw [step, enabled_afterChoice, if_neg (h ∘ eventEnabled_iff.2)]

/-- The next choice is the script's first; where the script is empty, the free one. -/
theorem nextEvent_afterChoice {i : Instr} {s s₁ : State}
    (h : (∃ rest, s.env.script = i :: rest ∧ s₁ = { s with env := { s.env with script := rest } }) ∨
      (s.env.script = [] ∧ i = Config.freeEvent s.env.picks ∧
        s₁ = { s with env := { s.env with picks := s.env.picks + 1 } })) :
    nextEvent s = i ∧ afterChoice s = s₁ := by
  unfold nextEvent afterChoice
  obtain ⟨rest, hscript, rfl⟩ | ⟨hscript, rfl, rfl⟩ := h <;> rw [hscript] <;> exact ⟨rfl, rfl⟩

/-- Settles O42: the model's next choice is the given one, and its test for running it is R10's table. -/
theorem stepRunsTheNextEvent : Obligations.StepRunsTheNextEvent := by
  intro i s s₁ hchoice
  obtain ⟨rfl, rfl⟩ := nextEvent_afterChoice hchoice
  exact ⟨step_of_eventEnabled, step_of_not_eventEnabled⟩

end Sys2Proof.Machine

/-! PROOFS. The state: what one event can do to each side of the link (R320), and with it the laws of the state: the invariant
and its consequences (R37), who writes the link state (R21), the stickiness of the diagnostic flags (R31), the state after both
initialisations (R35), and the register view (R32). -/

namespace Sys2Proof.Machine

/-! ### What an event that waits or clocks can do -/

/-- What `M.WAIT` can do: end the operation without a byte (R237, R238), go on to the clocking (R236), or nothing (R239). -/
theorem execMWait_cases {s t : State} (h : execMWait s = .next t) :
    (∃ r cs, t = returnMaster r (s.withMaster { s.master with cs := cs, phase := .idle })) ∨
    (s.master.phase = .wait ∧ t = s.withMaster { s.master with phase := .clock }) ∨ t = s := by
  obtain ⟨hwait, hbody⟩ := whenEnabled_next.1 h
  obtain ⟨-, hphase⟩ := (inPhase_iff s).1 hwait
  obtain rfl := Host.Outcome.next.inj hbody
  split
  · unfold masterReady
    split
    · split
      · exact .inl ⟨_, s.master.cs, rfl⟩
      · exact .inr (.inl ⟨hphase, rfl⟩)
    · exact .inr (.inl ⟨hphase, rfl⟩)
  · split
    · exact .inl ⟨_, _, rfl⟩
    · exact .inr (.inr rfl)

/-- What `M.CLOCK` of `send` can do: exchange the next byte (R240), or leave the clocking after the last one (R241). -/
theorem execMClockSend_cases {s t : State} (h : execMClockSend s = .next t) :
    s.master.phase = .clock ∧ s.master.op = .send ∧
    ((∃ b, s.master.idx < s.master.n ∧ t = (exchange b s).withMaster { s.master with idx := s.master.idx + 1 }) ∨
      (¬ s.master.idx < s.master.n ∧ t = s.withMaster { s.master with phase := .settle })) := by
  obtain ⟨hclock, hbody⟩ := whenEnabled_next.1 h
  obtain ⟨-, hphase, hop⟩ := (clocking_iff s).1 hclock
  refine ⟨hphase, hop, ?_⟩
  split at hbody
  · rename_i hlt
    split at hbody
    · exact .inl ⟨_, hlt, (Host.Outcome.next.inj hbody).symm⟩
    · cases hbody
  · rename_i hge
    exact .inr ⟨hge, (Host.Outcome.next.inj hbody).symm⟩

/-- What `M.CLOCK` of `receive` can do: exchange and capture a byte (R248), or leave the clocking (R249). -/
theorem execMClockRecv_cases {s t : State} (h : execMClockRecv s = .next t) :
    s.master.phase = .clock ∧ s.master.op = .recv ∧
    ((∃ b c, s.master.idx < min s.master.expected s.master.cap ∧
        t = (exchange b s).withMaster (captureByte c s.master)) ∨
      (¬ s.master.idx < min s.master.expected s.master.cap ∧
        t = s.withMaster { s.master with phase := .settle })) := by
  obtain ⟨hclock, hbody⟩ := whenEnabled_next.1 h
  obtain ⟨-, hphase, hop⟩ := (clocking_iff s).1 hclock
  refine ⟨hphase, hop, ?_⟩
  split at hbody
  · rename_i hlt
    exact .inl ⟨_, _, hlt, (Host.Outcome.next.inj hbody).symm⟩
  · rename_i hge
    exact .inr ⟨hge, (Host.Outcome.next.inj hbody).symm⟩

/-! ### What an event can do to the slave's side -/

/-- The state whose poll `S.TICK` runs: the counter has advanced (R182). -/
def ticked (s : State) : State := s.withSlave { s.slave with now := s.slave.now + 1 }

@[simp] theorem ticked_state (s : State) : (ticked s).slave.state = s.slave.state := rfl

/-- `S.TICK` of an initialised slave is the poll of the state with the counter advanced (R182). -/
theorem execSTick_next {s t : State} (h : execSTick s = .next t) : s.slave.inited = true ∧ t = poll (ticked s) := by
  obtain ⟨up, hbody⟩ := whenEnabled_next.1 h
  exact ⟨up, (Host.Outcome.next.inj hbody).symm⟩

/-- What an event of R10 can do to the slave record and the mailbox. -/
inductive SlaveEffect (s t : State) : Instr → Prop
  /-- The event leaves the slave's side as it was. -/
  | untouched {i : Instr} (slave : t.slave = s.slave) (mailbox : t.mailbox = s.mailbox) : SlaveEffect s t i
  /-- `S.INIT` writes what R180 lists. -/
  | initialised {ok : Bool}
      (slave : t.slave = { s.slave with
        inited := true, state := if ok then .idle else .error, srdy := false, mrdy := false, csAck := false
        txPending := false, rxCursor := 0, rxCount := 0, txLen := 0, txCount := 0, tStart := 0, diag := 0 })
      (mailbox : t.mailbox = { s.mailbox with new := false, len := 0 }) : SlaveEffect s t (.sInit ok)
  /-- `S.TICK` advances the counter and polls (R182). -/
  | polled (up : s.slave.inited = true) (next : t = poll (ticked s)) : SlaveEffect s t .sTick
  /-- `S.QUEUE` runs its body (R205). -/
  | queued {c : Byte} {p : List Byte} (up : s.slave.inited = true) (slave : t.slave = (queueMessage c p s).2.slave)
      (mailbox : t.mailbox = s.mailbox) : SlaveEffect s t (.sQueue c p)
  /-- `S.CLRDIAG` clears flags (R210). -/
  | cleared {mask : BitVec 5} (slave : t.slave = { s.slave with diag := clearDiag s.slave.diag mask })
      (mailbox : t.mailbox = s.mailbox) : SlaveEffect s t (.sClrdiag mask)
  /-- `D.GET` marks the message as read (R281). -/
  | fetched (slave : t.slave = s.slave) (mailbox : t.mailbox = { s.mailbox with new := false }) : SlaveEffect s t .dGet
  /-- A clocking event of the master runs the callback (R165). -/
  | exchanged {i : Instr} (b : Byte) (slave : t.slave = (exchange b s).slave) (mailbox : t.mailbox = s.mailbox) :
      SlaveEffect s t i

/-- Every event has one of these effects. -/
theorem exec_slaveEffect {i : Instr} {s t : State} (event : isEvent i = true) (h : exec i s = .next t) :
    SlaveEffect s t i := by
  cases i
  case sInit ok =>
    obtain rfl := Host.Outcome.next.inj h
    exact .initialised rfl rfl
  case sTick =>
    obtain ⟨up, hnext⟩ := execSTick_next h
    exact .polled up hnext
  case sQueue c p =>
    obtain ⟨up, hbody⟩ := whenEnabled_next.1 h
    obtain rfl := Host.Outcome.next.inj hbody
    exact .queued up rfl (by simp)
  case sClrdiag mask =>
    obtain rfl := Host.Outcome.next.inj (whenEnabled_next.1 h).2
    exact .cleared rfl rfl
  case dGet =>
    obtain rfl := Host.Outcome.next.inj (whenEnabled_next.1 h).2
    exact .fetched rfl rfl
  case mInit =>
    obtain rfl := Host.Outcome.next.inj h
    exact .untouched rfl rfl
  case dCheck | mTick | mSend | mRecv | mSettle | mRelease =>
    obtain rfl := Host.Outcome.next.inj (whenEnabled_next.1 h).2
    exact .untouched rfl rfl
  case mWait =>
    obtain ⟨r, cs, rfl⟩ | ⟨-, rfl⟩ | rfl := execMWait_cases h <;> exact .untouched rfl rfl
  case mClockSend =>
    obtain ⟨-, -, ⟨b, -, rfl⟩ | ⟨-, rfl⟩⟩ := execMClockSend_cases h
    · exact .exchanged b rfl (exchange_writes s b).1
    · exact .untouched rfl rfl
  case mClockRecv =>
    obtain ⟨-, -, ⟨b, c, -, rfl⟩ | ⟨-, rfl⟩⟩ := execMClockRecv_cases h
    · exact .exchanged b rfl (exchange_writes s b).1
    · exact .untouched rfl rfl
  -- the other rows are no events
  all_goals cases event

/-- A step has one of these effects, whether or not its choice was an event that could run. -/
theorem step_slaveEffect {s t : State} (h : step s = .next t) : SlaveEffect (afterChoice s) t (nextEvent s) := by
  rcases step_cases h with ⟨event, -, hexec⟩ | rfl
  · exact exec_slaveEffect event hexec
  · exact .untouched rfl rfl

/-! ### Only the tick and the initialisation write the link state -/

/-- An exchange leaves the link state as it was (R195). -/
@[simp] theorem exchange_state (b : Byte) (s : State) : (exchange b s).slave.state = s.slave.state := by
  obtain ⟨-, -, _, _, _, _, _, _, hslave⟩ := exchange_writes s b
  rw [hslave]

/-- Queueing a message leaves the link state as it was (R205). -/
@[simp] theorem queueMessage_state (c : Byte) (p : List Byte) (s : State) :
    (queueMessage c p s).2.slave.state = s.slave.state := by
  obtain ⟨_, _, _, _, hslave⟩ := queueMessage_slave s c p
  rw [hslave]

/-- An event that is neither the tick nor an initialisation leaves the link state as it was. -/
theorem SlaveEffect.state_eq {i : Instr} {s t : State} (h : SlaveEffect s t i) (hinit : ∀ ok, i ≠ .sInit ok)
    (htick : i ≠ .sTick) : t.slave.state = s.slave.state := by
  cases h with
  | initialised => exact absurd rfl (hinit _)
  | polled => exact absurd rfl htick
  | untouched slave | fetched slave => rw [slave]
  | cleared slave => rw [slave]
  | queued _ slave => rw [slave, queueMessage_state]
  | exchanged b slave => rw [slave, exchange_state]

/-- Settles O49: of the effects an event can have on the slave, only a poll and an initialisation write the state. -/
theorem onlyTickAndInitChangeLinkState : Obligations.OnlyTickAndInitChangeLinkState := by
  intro s t hstep hchanged
  by_contra hother
  obtain ⟨htick, hinit⟩ := not_or.1 hother
  have hsame := (step_slaveEffect hstep).state_eq (not_exists.1 hinit) htick
  rw [(afterChoice_link s).1] at hsame
  exact hchanged hsame

/-! ### Diagnostic flags are sticky -/

/-- A diagnostic word is the old one, with at most one error condition recorded in it (R300). -/
def Recorded (d d' : BitVec 8) : Prop := d' = d ∨ ∃ e, d' = recordError d e

/-- Nothing was recorded. -/
@[simp] theorem recorded_refl (d : BitVec 8) : Recorded d d := .inl rfl

/-- One error condition was recorded. -/
@[simp] theorem recorded_recordError (d : BitVec 8) (e : ErrorCondition) : Recorded d (recordError d e) := .inr ⟨e, rfl⟩

/-- Recording an error clears no flag (R31). -/
theorem diagFlag_recordError {d : BitVec 8} {f : DiagFlag} (h : diagFlag d f = true) (e : ErrorCondition) :
    diagFlag (recordError d e) f = true := by
  unfold recordError
  split
  · simp only [diagFlag] at h
    simp [setDiag, diagFlag, h]
  · exact h

/-- A set flag is still set after what is recorded (R31). -/
theorem Recorded.diagFlag_mono {d d' : BitVec 8} {f : DiagFlag} (h : Recorded d d') (hf : diagFlag d f = true) :
    diagFlag d' f = true := by
  obtain rfl | ⟨e, rfl⟩ := h
  · exact hf
  · exact diagFlag_recordError hf e

/-- `S.QUEUE` records at most `TX_REJECT`. -/
theorem queueMessage_recorded (c : Byte) (p : List Byte) (s : State) :
    Recorded s.slave.diag (queueMessage c p s).2.slave.diag := by
  rcases queueMessage_cases s c p with ⟨-, h⟩ | ⟨-, -, h⟩ | ⟨-, -, -, h⟩ | ⟨-, -, -, h⟩ <;> rw [h] <;> simp

/-- The completing poll records at most one error: the bytes' format, or what the dispatch of the frame records. -/
theorem deliverBytes_recorded (bytes : List Byte) (s : State) :
    Recorded s.slave.diag (deliverBytes bytes s).slave.diag := by
  rcases deliverBytes_cases s bytes with ⟨f, -, h⟩ | ⟨e, -, h⟩ <;> rw [h]
  · rcases dispatchFrame_cases s f with ⟨-, h⟩ | ⟨-, h⟩ | ⟨-, -, h⟩ <;> rw [h]
    · simp
    · exact queueMessage_recorded _ _ s
    · simp
  · exact recorded_recordError _ .badSync

/-- A poll records at most one error (R188, R193). -/
theorem poll_recorded (s : State) : Recorded s.slave.diag (poll s).slave.diag := by
  unfold poll
  split
  · rcases pollIdle_cases s with ⟨-, h⟩ | ⟨-, -, -, h⟩ | ⟨-, -, h⟩ <;> rw [h] <;> simp
  · rcases pollRx_cases s with ⟨-, h⟩ | ⟨-, -, h⟩ | ⟨-, -, h⟩ <;> rw [h]
    · exact deliverBytes_recorded _ s
    · simp
    · simp
  · rcases pollTx_cases s with ⟨-, h⟩ | ⟨-, -, h⟩ | ⟨-, -, h⟩ <;> rw [h] <;> simp
  · exact recorded_refl _

/-- The callback records at most `RX_OVERFLOW` (R196). -/
theorem byteRx_recorded (b : Byte) (s : State) : Recorded s.slave.diag (byteRx b s).slave.diag := by
  simp only [byteRx, shiftDraw_slave, withSlave_slave]
  split <;> simp

/-- A transmitted byte writes nothing of the slave but the counter and SRDY (R197). -/
@[simp] theorem byteTx_slave (b : Byte) (s : State) :
    (byteTx b s).slave = { s.slave with txCount := s.slave.txCount + 1, srdy := true } := by
  unfold byteTx
  split <;> rfl

/-- An exchange records at most `RX_OVERFLOW`. -/
theorem exchange_recorded (b : Byte) (s : State) : Recorded s.slave.diag (exchange b s).slave.diag := by
  rcases exchange_cases s b with ⟨-, h⟩ | ⟨-, -, h⟩ | ⟨-, -, h⟩ | ⟨-, -, h⟩ <;> rw [h]
  case inr.inr.inl => exact byteRx_recorded b s
  all_goals simp

/-- An event that clears no flag by its meaning records at most one error. -/
theorem SlaveEffect.recorded {i : Instr} {s t : State} (h : SlaveEffect s t i) (hinit : ∀ ok, i ≠ .sInit ok)
    (hclear : ∀ mask, i ≠ .sClrdiag mask) : Recorded s.slave.diag t.slave.diag := by
  cases h with
  | initialised => exact absurd rfl (hinit _)
  | cleared => exact absurd rfl (hclear _)
  | untouched slave | fetched slave => rw [slave]; exact recorded_refl _
  | polled _ next => rw [next]; exact poll_recorded (ticked s)
  | queued _ slave => rw [slave]; exact queueMessage_recorded _ _ s
  | exchanged b slave => rw [slave]; exact exchange_recorded b s

/-- Settles O52: every event but the two that clear flags records at most one error, which clears none. -/
theorem diagFlagsAreSticky : Obligations.DiagFlagsAreSticky := by
  intro s t f hstep hset hclear
  by_contra hother
  obtain ⟨hmask, hinit⟩ := not_or.1 hother
  have hrec := (step_slaveEffect hstep).recorded (not_exists.1 hinit) (not_exists.1 hmask)
  rw [(afterChoice_link s).1] at hrec
  exact Bool.false_ne_true (hclear.symm.trans (hrec.diagFlag_mono hset))

/-! ### What an event can do to the master

Where an operation stands: the facts of `MasterInv`, for each phase and operation in turn. -/

/-- What an event of R10 can do to the master record. -/
inductive MasterEffect (m m' : Master) : Prop
  /-- The event leaves the master as it was. -/
  | untouched (eq : m' = m)
  /-- `M.INIT` writes what R230 lists. -/
  | initialised (eq : m' = { m with
      inited := true, cs := false, phase := .idle, op := .send
      idx := 0, n := 0, expected := 0, cap := 0, tStart := 0, tx := [] })
  /-- `M.TICK` advances the counter (R231). -/
  | ticked (eq : m' = { m with now := m.now + 1 })
  /-- `M.SEND` starts (R235). -/
  | sendStarted (bytes : List Byte) (eq : m' = { m with
      op := .send, tx := bytes, n := bytes.length, idx := 0, cs := true, tStart := m.now, phase := .wait })
  /-- `M.RECV` starts (R245). -/
  | recvStarted (cap : Nat) (eq : m' = { m with
      op := .recv, cap := cap, idx := 0, expected := 2, cs := true, tStart := m.now, phase := .wait })
  /-- The operation is over, or chip-select is released between operations (R237, R238, R242, R254). -/
  | ended (cs : Bool) (eq : m' = { m with cs := cs, phase := .idle })
  /-- The slave answered: the clocking begins (R236). -/
  | answered (phase : m.phase = .wait) (eq : m' = { m with phase := .clock })
  /-- One byte of a `send` was clocked (R240). -/
  | sent (phase : m.phase = .clock) (op : m.op = .send) (more : m.idx < m.n) (eq : m' = { m with idx := m.idx + 1 })
  /-- The last byte of a `send` was clocked (R241). -/
  | sendClocked (phase : m.phase = .clock) (op : m.op = .send) (last : ¬ m.idx < m.n)
      (eq : m' = { m with phase := .settle })
  /-- One byte of a `receive` was captured (R248). -/
  | captured (b : Byte) (phase : m.phase = .clock) (op : m.op = .recv) (more : m.idx < min m.expected m.cap)
      (eq : m' = captureByte b m)
  /-- The last byte of a `receive` was captured (R249). -/
  | recvClocked (phase : m.phase = .clock) (op : m.op = .recv) (last : ¬ m.idx < min m.expected m.cap)
      (eq : m' = { m with phase := .settle })

/-- Every event has one of these effects. -/
theorem exec_masterEffect {i : Instr} {s t : State} (event : isEvent i = true) (h : exec i s = .next t) :
    MasterEffect s.master t.master := by
  cases i
  case sInit =>
    obtain rfl := Host.Outcome.next.inj h
    exact .untouched rfl
  case mInit =>
    obtain rfl := Host.Outcome.next.inj h
    exact .initialised rfl
  case sTick =>
    obtain rfl := Host.Outcome.next.inj (whenEnabled_next.1 h).2
    exact .untouched (by simp)
  case sQueue =>
    obtain rfl := Host.Outcome.next.inj (whenEnabled_next.1 h).2
    exact .untouched (by simp)
  case sClrdiag | dCheck | dGet =>
    obtain rfl := Host.Outcome.next.inj (whenEnabled_next.1 h).2
    exact .untouched rfl
  case mTick =>
    obtain rfl := Host.Outcome.next.inj (whenEnabled_next.1 h).2
    exact .ticked rfl
  case mSend bytes =>
    obtain rfl := Host.Outcome.next.inj (whenEnabled_next.1 h).2
    exact .sendStarted bytes rfl
  case mRecv cap =>
    obtain rfl := Host.Outcome.next.inj (whenEnabled_next.1 h).2
    exact .recvStarted cap rfl
  case mSettle =>
    obtain rfl := Host.Outcome.next.inj (whenEnabled_next.1 h).2
    exact .ended false rfl
  case mRelease =>
    obtain ⟨hidle, hbody⟩ := whenEnabled_next.1 h
    obtain ⟨-, hphase⟩ := (inPhase_iff s).1 hidle
    obtain rfl := Host.Outcome.next.inj hbody
    exact .ended false (by rw [← hphase]; rfl)
  case mWait =>
    obtain ⟨r, cs, rfl⟩ | ⟨hphase, rfl⟩ | rfl := execMWait_cases h
    · exact .ended cs rfl
    · exact .answered hphase rfl
    · exact .untouched rfl
  case mClockSend =>
    obtain ⟨hphase, hop, ⟨b, hmore, rfl⟩ | ⟨hlast, rfl⟩⟩ := execMClockSend_cases h
    · exact .sent hphase hop hmore rfl
    · exact .sendClocked hphase hop hlast rfl
  case mClockRecv =>
    obtain ⟨hphase, hop, ⟨b, c, hmore, rfl⟩ | ⟨hlast, rfl⟩⟩ := execMClockRecv_cases h
    · exact .captured c hphase hop hmore rfl
    · exact .recvClocked hphase hop hlast rfl
  -- the other rows are no events
  all_goals cases event

/-- Between operations the invariant of the master is about the length of `m.tx` alone. -/
theorem masterInv_of_idle {m : Master} (hphase : m.phase = .idle) (hn : m.n = m.tx.length) : MasterInv m := by
  simp [MasterInv, hphase, hn]

/-- The invariant of a `send` in progress: the index is within the bytes, at 0 while waiting, at the end when settling. -/
theorem masterInv_send {m : Master} (hphase : m.phase ≠ .idle) (hop : m.op = .send) :
    MasterInv m ↔ m.n = m.tx.length ∧ m.cs = true ∧ (m.phase = .wait → m.idx = 0) ∧ m.idx ≤ m.n ∧
      (m.phase = .settle → m.idx = m.n) := by
  simp [MasterInv, hphase, hop]

/-- The expected count of a `receive` at an index: two bytes until LENGTH is in, then two more than LENGTH (R245, R248). -/
def expectedAt (m : Master) : Nat := if m.idx ≤ 1 then 2 else 2 + (Memory.read m.rx 1).toNat

/-- The invariant of a `receive` in progress: the index is within the capacity and the expected count. -/
theorem masterInv_recv {m : Master} (hphase : m.phase ≠ .idle) (hop : m.op = .recv) :
    MasterInv m ↔ m.n = m.tx.length ∧ m.cs = true ∧ (m.phase = .wait → m.idx = 0) ∧
      (m.idx ≤ m.cap ∧ m.idx ≤ m.expected ∧ m.expected = expectedAt m) ∧
      (m.phase = .settle → m.idx = min m.expected m.cap) := by
  simp [MasterInv, hphase, hop, expectedAt]

/-- Capturing a byte keeps the expected count in step with the index: LENGTH, at index 1, is added when it comes (R248). -/
theorem expectedAt_captureByte {m : Master} {b : Byte} (hrx : m.rx.wf) (h : m.expected = expectedAt m) :
    (captureByte b m).expected = expectedAt (captureByte b m) := by
  have hread := Memory.read_write hrx m.idx b 1
  rw [expectedAt] at h
  show (if m.idx = 1 then m.expected + b.toNat else m.expected) =
    if m.idx + 1 ≤ 1 then 2 else 2 + (Memory.read (Memory.write m.rx m.idx b) 1).toNat
  rw [h, hread]
  rcases Nat.lt_trichotomy m.idx 1 with hlt | heq | hgt
  · simp [Nat.lt_one_iff.1 hlt]
  · simp [heq]
  · simp [hgt.ne, hgt.ne', Nat.not_le.2 hgt, Nat.ne_zero_of_lt hgt]

/-- A captured byte keeps the invariant. -/
theorem masterInv_captureByte {m : Master} {b : Byte} (hphase : m.phase = .clock) (hop : m.op = .recv)
    (hmore : m.idx < min m.expected m.cap) (hrx : m.rx.wf) (h : MasterInv m) : MasterInv (captureByte b m) := by
  obtain ⟨hn, hcs, -, ⟨-, -, hexpected⟩, -⟩ := (masterInv_recv (by simp [hphase]) hop).1 h
  have hgrows : m.expected ≤ (captureByte b m).expected := by
    simp only [captureByte]
    split <;> omega
  have hphase' : (captureByte b m).phase = .clock := hphase
  have hnot_idle : (captureByte b m).phase ≠ .idle := by simp [hphase']
  refine (masterInv_recv hnot_idle hop).2 ⟨hn, hcs, by simp [hphase'], ⟨?_, ?_, ?_⟩, by simp [hphase']⟩
  · exact (Nat.lt_min.1 hmore).2
  · exact (Nat.lt_min.1 hmore).1.trans_le hgrows
  · exact expectedAt_captureByte hrx hexpected

/-- Every effect on the master keeps the canonical form of the caller's buffer. -/
theorem MasterEffect.rx_wf {m m' : Master} (h : MasterEffect m m') (hrx : m.rx.wf) : m'.rx.wf := by
  cases h with
  | captured b _ _ _ eq => rw [eq]; exact Memory.write_wf hrx _ _
  | untouched eq | initialised eq | ticked eq => rw [eq]; exact hrx
  | sendStarted _ eq | recvStarted _ eq | ended _ eq | answered _ eq => rw [eq]; exact hrx
  | sent _ _ _ eq | sendClocked _ _ _ eq | recvClocked _ _ _ eq => rw [eq]; exact hrx

/-- Every effect on the master keeps its invariant. -/
theorem MasterEffect.keeps_inv {m m' : Master} (h : MasterEffect m m') (hrx : m.rx.wf)
    (hm : m.inited = true → MasterInv m) (up : m'.inited = true) : MasterInv m' := by
  cases h with
  | untouched eq => rw [eq] at up ⊢; exact hm up
  | initialised eq => rw [eq]; exact masterInv_of_idle rfl rfl
  | ticked eq => rw [eq] at up ⊢; exact hm up
  | sendStarted bytes eq => rw [eq]; simp [masterInv_send]
  | recvStarted cap eq =>
    rw [eq] at up ⊢
    have hn : m.n = m.tx.length := (hm up).1
    simp [masterInv_recv, expectedAt, hn]
  | ended cs eq => rw [eq] at up ⊢; exact masterInv_of_idle rfl (hm up).1
  | answered phase eq =>
    rw [eq] at up ⊢
    obtain hop | hop : m.op = .send ∨ m.op = .recv := by cases m.op <;> simp
    · obtain ⟨hn, hcs, -, hidx, -⟩ := (masterInv_send (by simp [phase]) hop).1 (hm up)
      exact (masterInv_send (m := { m with phase := .clock }) nofun hop).2 ⟨hn, hcs, nofun, hidx, nofun⟩
    · obtain ⟨hn, hcs, -, hidx, -⟩ := (masterInv_recv (by simp [phase]) hop).1 (hm up)
      exact (masterInv_recv (m := { m with phase := .clock }) nofun hop).2 ⟨hn, hcs, nofun, hidx, nofun⟩
  | sent phase op more eq =>
    rw [eq] at up ⊢
    obtain ⟨hn, hcs, -, -, -⟩ := (masterInv_send (by simp [phase]) op).1 (hm up)
    exact (masterInv_send (m := { m with idx := m.idx + 1 }) (by simp [phase]) op).2
      ⟨hn, hcs, by simp [phase], more, by simp [phase]⟩
  | sendClocked phase op last eq =>
    rw [eq] at up ⊢
    obtain ⟨hn, hcs, -, hidx, -⟩ := (masterInv_send (by simp [phase]) op).1 (hm up)
    exact (masterInv_send (m := { m with phase := .settle }) nofun op).2
      ⟨hn, hcs, nofun, hidx, fun _ => hidx.antisymm (Nat.not_lt.1 last)⟩
  | captured b phase op more eq =>
    rw [eq] at up ⊢
    exact masterInv_captureByte phase op more hrx (hm up)
  | recvClocked phase op last eq =>
    rw [eq] at up ⊢
    obtain ⟨hn, hcs, -, ⟨hcap, hexp, hexpected⟩, -⟩ := (masterInv_recv (by simp [phase]) op).1 (hm up)
    exact (masterInv_recv (m := { m with phase := .settle }) nofun op).2
      ⟨hn, hcs, nofun, ⟨hcap, hexp, hexpected⟩, fun _ => (Nat.le_min.2 ⟨hexp, hcap⟩).antisymm (Nat.not_lt.1 last)⟩

/-! ### The laws of the slave's side

`SlaveInv` and the buffers of the slave, in two parts: what every operation keeps, and the diagnostic word, of which every
operation records at most one error. -/

/-- The buffers of the slave's side are in canonical form and inside their capacities (R33). -/
structure SlaveBuffers (x : Slave) (mb : Mailbox) : Prop where
  rx : x.rxBuf.wf ∧ Memory.within 128 x.rxBuf
  tx : x.txBuf.wf ∧ Memory.within 128 x.txBuf
  mailbox : mb.buf.wf ∧ Memory.within 126 mb.buf

/-- The laws of an initialised slave and its mailbox, but for the diagnostic word. -/
structure SlaveLaws (x : Slave) (mb : Mailbox) : Prop extends SlaveBuffers x mb where
  state : stateInv x
  pending : x.txPending = true → pendingIsFrame x
  message : mb.new = true → 1 ≤ mb.len.val

/-- The slave's part of the link's invariant. -/
def SlaveSide (x : Slave) (mb : Mailbox) : Prop :=
  SlaveBuffers x mb ∧ (x.inited = true → SlaveLaws x mb ∧ x.diag.toNat < 32)

/-- The master's part of the link's invariant. -/
def MasterSide (m : Master) : Prop := m.rx.wf ∧ (m.inited = true → MasterInv m)

/-- The invariant of the link is one of each side. -/
theorem linkInv_iff {s : State} : LinkInv s ↔ SlaveSide s.slave s.mailbox ∧ MasterSide s.master := by
  constructor
  · rintro ⟨hslave, hmaster, hrx, hrx', htx, htx', hmb, hmb', hm⟩
    have buffers : SlaveBuffers s.slave s.mailbox := ⟨⟨hrx, hrx'⟩, ⟨htx, htx'⟩, hmb, hmb'⟩
    refine ⟨⟨buffers, fun up => ?_⟩, hm, hmaster⟩
    obtain ⟨⟨hstate, hpending, hdiag⟩, hmessage⟩ := hslave up
    exact ⟨⟨buffers, hstate, hpending, hmessage⟩, hdiag⟩
  · rintro ⟨⟨⟨⟨hrx, hrx'⟩, ⟨htx, htx'⟩, hmb, hmb'⟩, hslave⟩, hm, hmaster⟩
    refine ⟨fun up => ?_, hmaster, hrx, hrx', htx, htx', hmb, hmb', hm⟩
    obtain ⟨laws, hdiag⟩ := hslave up
    exact ⟨⟨laws.state, laws.pending, hdiag⟩, laws.message⟩

/-! ### The law of each link state -/

theorem stateInv_idle {x : Slave} (h : x.state = .idle) : stateInv x ↔
    x.srdy = false ∧ x.csAck = false ∧ x.rxCount = 0 ∧ x.rxCursor = 0 ∧ x.txCount = 0 ∧
      (x.mrdy = true → x.txPending = true) := by
  simp only [stateInv, h]

theorem stateInv_rx {x : Slave} (h : x.state = .rx) : stateInv x ↔
    x.srdy = true ∧ x.csAck = true ∧ x.mrdy = false ∧ x.txCount = 0 ∧ cursorFollows x.rxCount x.rxCursor := by
  simp only [stateInv, h]

theorem stateInv_tx {x : Slave} (h : x.state = .tx) : stateInv x ↔
    x.srdy = true ∧ x.csAck = true ∧ x.mrdy = true ∧ x.txPending = true ∧ x.rxCount = 0 ∧ x.rxCursor = 0 := by
  simp only [stateInv, h]

theorem stateInv_error {x : Slave} (h : x.state = .error) : stateInv x ↔
    x.srdy = false ∧ x.mrdy = false ∧ x.csAck = false ∧ x.txPending = false ∧ x.rxCount = 0 ∧ x.rxCursor = 0 ∧
      x.txCount = 0 := by
  simp only [stateInv, h]

/-- Outside `RX` the received-byte counter and the cursor are 0. -/
theorem stateInv_outside_rx {x : Slave} (h : stateInv x) (hx : x.state ≠ .rx) : x.rxCount = 0 ∧ x.rxCursor = 0 := by
  cases hstate : x.state with
  | idle =>
    obtain ⟨-, -, hcount, hcursor, -⟩ := (stateInv_idle hstate).1 h
    exact ⟨hcount, hcursor⟩
  | rx => exact absurd hstate hx
  | tx =>
    obtain ⟨-, -, -, -, hcount, hcursor⟩ := (stateInv_tx hstate).1 h
    exact ⟨hcount, hcursor⟩
  | error =>
    obtain ⟨-, -, -, -, hcount, hcursor, -⟩ := (stateInv_error hstate).1 h
    exact ⟨hcount, hcursor⟩

/-- A message may become pending in every state but `ERROR`. -/
theorem stateInv_with_pending {x : Slave} (h : stateInv x) (hx : x.state ≠ .error) (b : Memory) (l : Fin 129) :
    stateInv { x with txBuf := b, txLen := l, txPending := true } := by
  cases hstate : x.state with
  | idle =>
    obtain ⟨hsrdy, hack, hcount, hcursor, htx, -⟩ := (stateInv_idle hstate).1 h
    exact (stateInv_idle rfl).2 ⟨hsrdy, hack, hcount, hcursor, htx, fun _ => rfl⟩
  | rx => exact (stateInv_rx rfl).2 ((stateInv_rx hstate).1 h)
  | tx =>
    obtain ⟨hsrdy, hack, hmrdy, -, hrest⟩ := (stateInv_tx hstate).1 h
    exact (stateInv_tx rfl).2 ⟨hsrdy, hack, hmrdy, rfl, hrest⟩
  | error => exact absurd hstate hx

/-! ### The diagnostic word -/

/-- What is recorded is one of the five flags, so the reserved bits stay 0 (R31). -/
theorem Recorded.lt {d d' : BitVec 8} (h : Recorded d d') (hd : d.toNat < 32) : d'.toNat < 32 := by
  obtain rfl | ⟨e, rfl⟩ := h
  · exact hd
  · unfold recordError
    split
    · rename_i f _
      rw [setDiag, BitVec.toNat_or]
      exact Nat.or_lt_two_pow (n := 5) hd (by cases f <;> decide)
    · exact hd

/-- Clearing flags sets none (R210). -/
theorem clearDiag_lt {d : BitVec 8} (hd : d.toNat < 32) (mask : BitVec 5) : (clearDiag d mask).toNat < 32 := by
  rw [clearDiag, BitVec.toNat_and]
  exact Nat.and_le_left.trans_lt hd

/-! ### The operations keep the laws -/

/-- The laws do not speak of the time, of the start of the session, or of the diagnostic word. -/
theorem SlaveLaws.with_time_diag {x : Slave} {mb : Mailbox} (h : SlaveLaws x mb) (now start : Word32) (d : BitVec 8) :
    SlaveLaws { x with now := now, tStart := start, diag := d } mb :=
  ⟨⟨h.rx, h.tx, h.mailbox⟩, h.state, h.pending, h.message⟩

/-- A queued message reads back as the frame that `F.ENCODE` built (R205). -/
theorem pendingIsFrame_queued {x : Slave} (hwf : x.txBuf.wf) (c : Byte) {p : List Byte} (hp : p.length ≤ 125) :
    pendingIsFrame { x with
      txBuf := Memory.writeBlock x.txBuf 0 (0x5A :: BitVec.ofNat 8 (1 + p.length) :: c :: p)
      txLen := Fin.ofNat 129 (p.length + 3), txPending := true } := by
  refine ⟨c, p, ?_⟩
  have hlen : (Fin.ofNat 129 (p.length + 3)).val = (0x5A :: BitVec.ofNat 8 (1 + p.length) :: c :: p).length := by
    simp only [Fin.ofNat, List.length_cons]
    omega
  rw [encodeFrame_eq, if_pos hp, hlen, Memory.readBlock_writeBlock hwf]

/-- `S.QUEUE` keeps the laws: what it takes is a frame that fits. -/
theorem queueMessage_keeps {s : State} (h : SlaveLaws s.slave s.mailbox) (c : Byte) (p : List Byte) :
    SlaveLaws (queueMessage c p s).2.slave (queueMessage c p s).2.mailbox := by
  rcases queueMessage_cases s c p with ⟨-, hq⟩ | ⟨-, -, hq⟩ | ⟨-, -, -, hq⟩ | ⟨hstate, hp, -, hq⟩ <;> rw [hq]
  · exact h
  · exact h
  · exact h.with_time_diag _ _ _
  · obtain ⟨hwf, hwithin⟩ := h.tx
    have hfits : 0 + (0x5A :: BitVec.ofNat 8 (1 + p.length) :: c :: p).length ≤ 128 := by
      simp only [List.length_cons]
      omega
    exact ⟨⟨h.rx, ⟨Memory.writeBlock_wf hwf _ _, Memory.writeBlock_within hwithin hfits⟩, h.mailbox⟩,
      stateInv_with_pending h.state hstate _ _, fun _ => pendingIsFrame_queued hwf c hp, h.message⟩

/-- What a frame is: LENGTH counts the command and the payload (R130). -/
theorem Frame.length_eq {f : Frame} (h : f.WellFormed = true) : f.length = 1 + f.payload.length := by
  simp only [Frame.WellFormed, Bool.and_eq_true, decide_eq_true_eq] at h
  omega

/-- An application frame that fits the mailbox keeps the laws (R273). -/
theorem postMessage_keeps {s : State} (h : SlaveLaws s.slave s.mailbox) {f : Frame} (hf : f.WellFormed = true)
    (hfits : f.length ≤ 126) : SlaveLaws (postMessage f s).slave (postMessage f s).mailbox := by
  obtain ⟨hwf, hwithin⟩ := h.mailbox
  obtain ⟨-, hlen, -⟩ := postMessage_mailbox s hwf hfits
  have hlength := Frame.length_eq hf
  refine ⟨⟨h.rx, h.tx, Memory.writeBlock_wf hwf _ _, Memory.writeBlock_within hwithin ?_⟩, h.state, h.pending,
    fun _ => ?_⟩
  · simp only [List.length_cons]
    omega
  · rw [hlen]
    omega

/-- Every route of `D.DISPATCH` keeps the laws (R270). -/
theorem dispatchFrame_keeps {s : State} (h : SlaveLaws s.slave s.mailbox) {f : Frame} (hf : f.WellFormed = true)
    (hfits : f.length ≤ 126) : SlaveLaws (dispatchFrame f s).slave (dispatchFrame f s).mailbox := by
  rcases dispatchFrame_cases s f with ⟨-, hd⟩ | ⟨-, hd⟩ | ⟨-, -, hd⟩ <;> rw [hd]
  · exact postMessage_keeps h hf hfits
  · exact queueMessage_keeps h _ _
  · exact h

/-- The delivery of what the Receive Buffer can hold keeps the laws (R190, R191). -/
theorem deliverBytes_keeps {s : State} (h : SlaveLaws s.slave s.mailbox) {bytes : List Byte}
    (hlen : bytes.length ≤ 128) : SlaveLaws (deliverBytes bytes s).slave (deliverBytes bytes s).mailbox := by
  rcases deliverBytes_cases s bytes with ⟨f, hf, hd⟩ | ⟨e, -, hd⟩ <;> rw [hd]
  · obtain ⟨hwellFormed, hshort⟩ := validateFrame_wellFormed hf
    exact dispatchFrame_keeps h hwellFormed (by omega)
  · exact h.with_time_diag _ _ _

/-- A session holds at most 128 bytes (R190). -/
theorem length_heldBytes (s : State) : (heldBytes s).length ≤ 128 := by
  simp [heldBytes]

/-- A delivery leaves the link state as it was. -/
@[simp] theorem deliverBytes_state (bytes : List Byte) (s : State) :
    (deliverBytes bytes s).slave.state = s.slave.state := by
  obtain ⟨_, _, _, _, hslave⟩ := deliverBytes_slave s bytes
  rw [hslave]

/-- The end of an `RX` session keeps the laws (R190, R192). -/
theorem closeRx_keeps {s : State} (h : SlaveLaws s.slave s.mailbox) (hrx : s.slave.state = .rx) :
    SlaveLaws (closeRx s).slave (closeRx s).mailbox := by
  obtain ⟨-, -, hmrdy, htx, -⟩ := (stateInv_rx hrx).1 h.state
  have hstate : stateInv (closeRx s).slave :=
    (stateInv_idle rfl).2 ⟨rfl, rfl, rfl, rfl, htx, fun hm => absurd (hmrdy.symm.trans hm) Bool.false_ne_true⟩
  exact ⟨⟨h.rx, h.tx, h.mailbox⟩, hstate, h.pending, h.message⟩

/-- The end of a `TX` session keeps the laws (R193, R194). -/
theorem closeTx_keeps {s : State} (h : SlaveLaws s.slave s.mailbox) (htx : s.slave.state = .tx) :
    SlaveLaws (closeTx s).slave (closeTx s).mailbox := by
  obtain ⟨-, -, -, -, hcount, hcursor⟩ := (stateInv_tx htx).1 h.state
  have hstate : stateInv (closeTx s).slave := (stateInv_idle rfl).2 ⟨rfl, rfl, hcount, hcursor, rfl, nofun⟩
  exact ⟨⟨h.rx, h.tx, h.mailbox⟩, hstate, nofun, h.message⟩

/-- Opening a session keeps the laws: it is one of `TX` exactly when a message is announced (R185, R154). -/
theorem openSession_keeps {s : State} (h : SlaveLaws s.slave s.mailbox) (hidle : s.slave.state = .idle) :
    SlaveLaws (openSession s).slave (openSession s).mailbox := by
  obtain ⟨-, -, hcount, hcursor, htx, hannounced⟩ := (stateInv_idle hidle).1 h.state
  have hstate : stateInv (openSession s).slave := by
    cases hmrdy : s.slave.mrdy with
    | true =>
      have hopen : (openSession s).slave.state = .tx := by simp [hmrdy]
      exact (stateInv_tx hopen).2 ⟨rfl, rfl, hmrdy, hannounced hmrdy, hcount, hcursor⟩
    | false =>
      have hopen : (openSession s).slave.state = .rx := by simp [hmrdy]
      have hfollows : cursorFollows s.slave.rxCount s.slave.rxCursor := by simp [cursorFollows, hcount, hcursor]
      exact (stateInv_rx hopen).2 ⟨rfl, rfl, hmrdy, htx, hfollows⟩
  exact ⟨⟨h.rx, h.tx, h.mailbox⟩, hstate, h.pending, h.message⟩

/-- Announcing a pending message keeps the laws (R186). -/
theorem announce_keeps {s : State} (h : SlaveLaws s.slave s.mailbox) (hidle : s.slave.state = .idle)
    (hpending : s.slave.txPending = true) : SlaveLaws { s.slave with mrdy := true } s.mailbox := by
  obtain ⟨hsrdy, hack, hcount, hcursor, htx, -⟩ := (stateInv_idle hidle).1 h.state
  exact ⟨⟨h.rx, h.tx, h.mailbox⟩, (stateInv_idle (by exact hidle)).2 ⟨hsrdy, hack, hcount, hcursor, htx, fun _ => hpending⟩,
    h.pending, h.message⟩

/-- Every poll keeps the laws (R183). -/
theorem poll_keeps {s : State} (h : SlaveLaws s.slave s.mailbox) : SlaveLaws (poll s).slave (poll s).mailbox := by
  unfold poll
  split
  case h_1 hidle =>
    rcases pollIdle_cases s with ⟨-, hp⟩ | ⟨-, hpending, -, hp⟩ | ⟨-, -, hp⟩ <;> rw [hp]
    · exact openSession_keeps h hidle
    · exact announce_keeps h hidle hpending
    · exact h
  case h_2 hrx =>
    rcases pollRx_cases s with ⟨-, hp⟩ | ⟨-, -, hp⟩ | ⟨-, -, hp⟩ <;> rw [hp]
    · exact closeRx_keeps (deliverBytes_keeps h (length_heldBytes s)) (by rw [deliverBytes_state, hrx])
    · exact closeRx_keeps (h.with_time_diag _ _ _) hrx
    · exact h
  case h_3 htx =>
    rcases pollTx_cases s with ⟨-, hp⟩ | ⟨-, -, hp⟩ | ⟨-, -, hp⟩ <;> rw [hp]
    · exact closeTx_keeps h htx
    · exact closeTx_keeps (h.with_time_diag _ _ _) htx
    · exact h
  case h_4 => exact h

/-- A stored byte moves the cursor as it moves the counter, across the wrap of either (R196, R286). -/
theorem cursorFollows_store {count : Word32} {cursor : Fin 129} (h : cursorFollows count cursor) :
    cursorFollows (count + 1) (Fin.ofNat 129 (storeOffset cursor + 1)) := by
  have hcount := count.isLt
  have hnext : (count + 1).toNat = (count.toNat + 1) % 2 ^ 32 := by simp [BitVec.toNat_add]
  have hoffset : storeOffset cursor = if cursor.val = 128 then 0 else cursor.val := rfl
  unfold cursorFollows at h ⊢
  rw [cursor_after, hnext, hoffset]
  split at h <;> split <;> split <;> omega

/-- A byte received in `RX` keeps the laws (R196). -/
theorem byteRx_keeps {s : State} (h : SlaveLaws s.slave s.mailbox) (hrx : s.slave.state = .rx) (b : Byte) :
    SlaveLaws (byteRx b s).slave (byteRx b s).mailbox := by
  obtain ⟨-, hack, hmrdy, htx, hfollows⟩ := (stateInv_rx hrx).1 h.state
  obtain ⟨hwf, hwithin⟩ := h.rx
  have hstate : stateInv (byteRx b s).slave :=
    (stateInv_rx (by exact hrx)).2 ⟨rfl, hack, hmrdy, htx, cursorFollows_store hfollows⟩
  exact ⟨⟨⟨Memory.write_wf hwf _ _, Memory.write_within hwithin (storeOffset_lt _) _⟩, h.tx, h.mailbox⟩, hstate,
    h.pending, h.message⟩

/-- A byte transmitted in `TX` keeps the laws (R197). -/
theorem byteTx_keeps {s : State} (h : SlaveLaws s.slave s.mailbox) (htx : s.slave.state = .tx) :
    SlaveLaws { s.slave with txCount := s.slave.txCount + 1, srdy := true } s.mailbox := by
  obtain ⟨-, hrest⟩ := (stateInv_tx htx).1 h.state
  exact ⟨⟨h.rx, h.tx, h.mailbox⟩, (stateInv_tx (by exact htx)).2 ⟨rfl, hrest⟩, h.pending, h.message⟩

/-- The callback keeps the laws (R195). -/
theorem exchange_keeps {s : State} (h : SlaveLaws s.slave s.mailbox) (b : Byte) :
    SlaveLaws (exchange b s).slave s.mailbox := by
  rcases exchange_cases s b with ⟨-, he⟩ | ⟨-, -, he⟩ | ⟨-, hrx, he⟩ | ⟨-, htx, he⟩ <;> rw [he]
  · exact h
  · exact h
  · exact byteRx_keeps h hrx b
  · rw [byteTx_slave]
    exact byteTx_keeps h htx

/-! ### Every effect keeps the slave's side -/

/-- Laws and a diagnostic word below 32 make up the slave's side. -/
theorem SlaveLaws.slaveSide {x : Slave} {mb : Mailbox} (h : SlaveLaws x mb) (hdiag : x.diag.toNat < 32) :
    SlaveSide x mb :=
  ⟨h.toSlaveBuffers, fun _ => ⟨h, hdiag⟩⟩

/-- `S.INIT` establishes the laws, from any contents of the buffers (R180). -/
theorem slaveSide_initialised {x : Slave} {mb : Mailbox} (h : SlaveBuffers x mb) (ok : Bool) :
    SlaveSide { x with
      inited := true, state := if ok then .idle else .error, srdy := false, mrdy := false, csAck := false
      txPending := false, rxCursor := 0, rxCount := 0, txLen := 0, txCount := 0, tStart := 0, diag := 0 }
      { mb with new := false, len := 0 } := by
  have buffers : ∀ y : Slave, y.rxBuf = x.rxBuf → y.txBuf = x.txBuf →
      SlaveBuffers y { mb with new := false, len := 0 } :=
    fun y hrx htx => ⟨hrx ▸ h.rx, htx ▸ h.tx, h.mailbox⟩
  refine SlaveLaws.slaveSide ⟨buffers _ rfl rfl, ?_, nofun, nofun⟩ (Nat.zero_lt_succ 31)
  cases ok
  · exact (stateInv_error rfl).2 ⟨rfl, rfl, rfl, rfl, rfl, rfl, rfl⟩
  · exact (stateInv_idle rfl).2 ⟨rfl, rfl, rfl, rfl, rfl, nofun⟩

/-- An exchange changes nothing of a slave that is not initialised (R181). -/
theorem exchange_slave_down {s : State} (down : s.slave.inited = false) (b : Byte) :
    (exchange b s).slave = s.slave := by
  simp [exchange, slaveUp, down]

/-- Every effect of an event on the slave's side keeps its part of the invariant. -/
theorem SlaveEffect.keeps_side {i : Instr} {s t : State} (h : SlaveEffect s t i) (hs : SlaveSide s.slave s.mailbox) :
    SlaveSide t.slave t.mailbox := by
  obtain ⟨buffers, hup⟩ := hs
  cases h with
  | untouched slave mailbox =>
    rw [slave, mailbox]
    exact ⟨buffers, hup⟩
  | initialised slave mailbox =>
    rw [slave, mailbox]
    exact slaveSide_initialised buffers _
  | polled up next =>
    obtain ⟨laws, hdiag⟩ := hup up
    rw [next]
    have hticked : SlaveLaws (ticked s).slave (ticked s).mailbox := laws.with_time_diag _ _ _
    exact (poll_keeps hticked).slaveSide ((poll_recorded (ticked s)).lt hdiag)
  | queued up slave mailbox =>
    obtain ⟨laws, hdiag⟩ := hup up
    rw [slave, mailbox, ← queueMessage_mailbox s]
    exact (queueMessage_keeps laws _ _).slaveSide ((queueMessage_recorded _ _ s).lt hdiag)
  | cleared slave mailbox =>
    rw [slave, mailbox]
    refine ⟨⟨buffers.rx, buffers.tx, buffers.mailbox⟩, fun up => ?_⟩
    obtain ⟨laws, hdiag⟩ := hup up
    exact ⟨laws.with_time_diag _ _ _, clearDiag_lt hdiag _⟩
  | fetched slave mailbox =>
    rw [slave, mailbox]
    refine ⟨⟨buffers.rx, buffers.tx, buffers.mailbox⟩, fun up => ?_⟩
    obtain ⟨laws, hdiag⟩ := hup up
    exact ⟨⟨⟨buffers.rx, buffers.tx, buffers.mailbox⟩, laws.state, laws.pending, nofun⟩, hdiag⟩
  | exchanged b slave mailbox =>
    rw [slave, mailbox]
    cases up : s.slave.inited with
    | false =>
      rw [exchange_slave_down up]
      exact ⟨buffers, hup⟩
    | true =>
      obtain ⟨laws, hdiag⟩ := hup up
      exact (exchange_keeps laws b).slaveSide ((exchange_recorded b s).lt hdiag)

/-- Every event keeps the invariant of the link. -/
theorem exec_keeps_linkInv {i : Instr} {s t : State} (event : isEvent i = true) (h : exec i s = .next t)
    (hs : LinkInv s) : LinkInv t := by
  obtain ⟨hslave, hrx, hmaster⟩ := linkInv_iff.1 hs
  have heffect := exec_masterEffect event h
  exact linkInv_iff.2 ⟨(exec_slaveEffect event h).keeps_side hslave, heffect.rx_wf hrx, heffect.keeps_inv hrx hmaster⟩

/-- A choice of the environment changes nothing that the invariant speaks of. -/
@[simp] theorem linkInv_afterChoice {s : State} : LinkInv (afterChoice s) ↔ LinkInv s := by
  obtain ⟨hslave, hmailbox, hmaster⟩ := afterChoice_link s
  rw [linkInv_iff, linkInv_iff, hslave, hmailbox, hmaster]

/-- Every step keeps the invariant of the link. -/
theorem step_keeps_linkInv {s t : State} (h : step s = .next t) (hs : LinkInv s) : LinkInv t := by
  rw [← linkInv_afterChoice] at hs
  rcases step_cases h with ⟨event, -, hexec⟩ | rfl
  · exact exec_keeps_linkInv event hexec hs
  · exact hs

/-! ### The cursor law -/

/-- Inside an `RX` session that goes on, an event leaves the counter and the cursor, or receives a byte. -/
theorem SlaveEffect.rx_goes_on {i : Instr} {s t : State} (h : SlaveEffect s t i) (hs : s.slave.state = .rx)
    (ht : t.slave.state = .rx) : t.slave.inited = s.slave.inited ∧
      ((t.slave.rxCount = s.slave.rxCount ∧ t.slave.rxCursor = s.slave.rxCursor) ∨
        ∃ b, t.slave = (byteRx b s).slave) := by
  cases h with
  | untouched slave | fetched slave => simp [slave]
  | cleared slave => simp [slave]
  | @initialised ok slave =>
    rw [slave] at ht
    cases ok <;> cases ht
  | polled _ next =>
    have hpoll : t = pollRx (ticked s) := by simp [next, poll, hs]
    rcases pollRx_cases (ticked s) with ⟨-, hp⟩ | ⟨-, -, hp⟩ | ⟨-, -, hp⟩ <;> rw [hpoll, hp] at ht ⊢
    · cases ht
    · cases ht
    · exact ⟨rfl, .inl ⟨rfl, rfl⟩⟩
  | @queued c p _ slave =>
    obtain ⟨_, _, _, _, hslave⟩ := queueMessage_slave s c p
    simp [slave, hslave]
  | exchanged b slave =>
    rw [slave]
    rcases exchange_cases s b with ⟨-, he⟩ | ⟨-, -, he⟩ | ⟨-, -, he⟩ | ⟨-, htx, -⟩
    · simp [he]
    · simp [he]
    · exact he ▸ ⟨rfl, .inr ⟨b, rfl⟩⟩
    · cases hs.symm.trans htx

/-- An `RX` session opens with no byte received (R185). -/
theorem SlaveEffect.rx_opens {i : Instr} {s t : State} (h : SlaveEffect s t i) (hside : SlaveSide s.slave s.mailbox)
    (hs : s.slave.state ≠ .rx) (ht : t.slave.state = .rx) : t.slave.rxCount = 0 ∧ t.slave.rxCursor = 0 := by
  cases h with
  | @initialised ok slave =>
    rw [slave] at ht
    cases ok <;> cases ht
  | polled up next =>
    obtain ⟨hcount, hcursor⟩ := stateInv_outside_rx (hside.2 up).1.state hs
    rw [next] at ht ⊢
    unfold poll at ht ⊢
    split at ht
    case h_1 =>
      rcases pollIdle_cases (ticked s) with ⟨-, hp⟩ | ⟨-, -, -, hp⟩ | ⟨-, -, hp⟩ <;> rw [hp] <;> exact ⟨hcount, hcursor⟩
    case h_2 hrx => exact absurd hrx hs
    case h_3 =>
      rcases pollTx_cases (ticked s) with ⟨-, hp⟩ | ⟨-, -, hp⟩ | ⟨-, -, hp⟩ <;> rw [hp] <;> exact ⟨hcount, hcursor⟩
    case h_4 => exact ⟨hcount, hcursor⟩
  | untouched slave | fetched slave => exact absurd (slave ▸ ht) hs
  | cleared slave => exact absurd (by rw [slave] at ht; exact ht) hs
  | queued _ slave => exact absurd (by rwa [slave, queueMessage_state] at ht) hs
  | exchanged b slave => exact absurd (by rwa [slave, exchange_state] at ht) hs

/-- Below the end of the buffer a received byte moves counter and cursor alike. -/
theorem byteRx_cursor_eq_count {b : Byte} {s : State} (h : s.slave.rxCursor.val = s.slave.rxCount.toNat)
    (hroom : s.slave.rxCursor.val ≠ 128) :
    (byteRx b s).slave.rxCursor.val = (byteRx b s).slave.rxCount.toNat := by
  have hlt := s.slave.rxCursor.isLt
  have hoffset : storeOffset s.slave.rxCursor = s.slave.rxCursor.val := if_neg hroom
  have hnext : (s.slave.rxCount + 1).toNat = (s.slave.rxCount.toNat + 1) % 2 ^ 32 := by simp [BitVec.toNat_add]
  show (Fin.ofNat 129 (storeOffset s.slave.rxCursor + 1)).val = (s.slave.rxCount + 1).toNat
  rw [cursor_after, hoffset, hnext]
  omega

/-- A received byte is counted: the counter never keeps its value. -/
theorem byteRx_rxCount_ne (b : Byte) (s : State) : (byteRx b s).slave.rxCount ≠ s.slave.rxCount := by
  show s.slave.rxCount + 1 ≠ s.slave.rxCount
  bv_omega

/-- R37 item 7: every effect keeps the cursor law, with the history of the overflow brought up to date. -/
theorem SlaveEffect.keeps_cursorInv {i : Instr} {s t : State} {seen : Bool} (h : SlaveEffect s t i)
    (hside : SlaveSide s.slave s.mailbox) (hcursor : CursorInv seen s) : CursorInv (overflowSeen seen s t) t := by
  intro up hunseen
  by_cases ht : t.slave.state = .rx
  · by_cases hs : s.slave.state = .rx
    · obtain ⟨hup, hsession⟩ := h.rx_goes_on hs ht
      rw [← Bool.not_eq_true, overflowSeen_iff, not_and, not_or, Bool.not_eq_true] at hunseen
      obtain ⟨hseen, hroom⟩ := hunseen ⟨hs, ht⟩
      have hequal := hcursor (hup ▸ up) hseen
      obtain ⟨hcount, hcur⟩ | ⟨b, hbyte⟩ := hsession
      · rw [hcount, hcur, hequal]
      · rw [hbyte] at hroom ⊢
        exact byteRx_cursor_eq_count hequal fun hfull => hroom ⟨hfull, byteRx_rxCount_ne b s⟩
    · obtain ⟨hcount, hcur⟩ := h.rx_opens hside hs ht
      rw [hcount, hcur]
      rfl
  · obtain ⟨hcount, hcur⟩ := stateInv_outside_rx ((h.keeps_side hside).2 up).1.state ht
    rw [hcount, hcur]
    rfl

/-- The event by which the overflow is first seen is a byte at the full buffer, and it sets `RX_OVERFLOW` (R196). -/
theorem SlaveEffect.overflow_flagged {i : Instr} {s t : State} (h : SlaveEffect s t i)
    (hseen : overflowSeen false s t = true) : t.slave.diag.getLsbD 0 = true := by
  obtain ⟨⟨hs, ht⟩, hnew⟩ := overflowSeen_iff.1 hseen
  obtain ⟨hfull, hcounted⟩ := hnew.resolve_left Bool.false_ne_true
  obtain ⟨-, ⟨hcount, -⟩ | ⟨b, hbyte⟩⟩ := h.rx_goes_on hs ht
  · exact absurd hcount hcounted
  · have hdiag : (byteRx b s).slave.diag = recordError s.slave.diag .rxOverflow := if_pos hfull
    rw [hbyte, hdiag]
    simp [recordError, errorFlag, setDiag, diagMask, diagBit]

/-- Settles O45: each side's effects keep its part of the invariant, and the slave's keep the cursor law. -/
theorem stepKeepsLinkInv : Obligations.StepKeepsLinkInv := by
  intro seen s t hlink hcursor hstep
  have heffect := step_slaveEffect hstep
  have hslave : (afterChoice s).slave = s.slave := (afterChoice_link s).1
  have hhistory : ∀ seen, overflowSeen seen (afterChoice s) t = overflowSeen seen s t := fun seen => by
    simp only [overflowSeen, hslave]
  have hcursor' : CursorInv seen (afterChoice s) := by rwa [CursorInv, hslave]
  obtain ⟨hside, -⟩ := linkInv_iff.1 (linkInv_afterChoice.2 hlink)
  refine ⟨step_keeps_linkInv hstep hlink, hhistory seen ▸ heffect.keeps_cursorInv hside hcursor', ?_⟩
  rintro rfl hseen
  exact heffect.overflow_flagged (hhistory false ▸ hseen)

/-! ### The invariant gives the state laws, and holds at reset -/

/-- A pending frame has between 3 and 128 bytes, because `F.ENCODE` builds none shorter or longer (R29, R131). -/
theorem pendingIsFrame_length {x : Slave} (h : pendingIsFrame x) : 3 ≤ x.txLen.val ∧ x.txLen.val ≤ 128 := by
  obtain ⟨c, p, hframe⟩ := h
  rw [encodeFrame_eq] at hframe
  split at hframe
  · have hlen := congrArg List.length (Option.some.inj hframe)
    simp only [List.length_cons, Memory.length_readBlock] at hlen
    omega
  · cases hframe

/-- R37 items 2 and 3: `cs_ack` and SRDY are asserted exactly inside a session. -/
theorem session_lines {x : Slave} (h : stateInv x) :
    (x.csAck = true ↔ x.state = .rx ∨ x.state = .tx) ∧ (x.srdy = true ↔ x.state = .rx ∨ x.state = .tx) := by
  cases hstate : x.state with
  | idle =>
    obtain ⟨hsrdy, hack, -⟩ := (stateInv_idle hstate).1 h
    simp [hsrdy, hack]
  | rx =>
    obtain ⟨hsrdy, hack, -⟩ := (stateInv_rx hstate).1 h
    simp [hsrdy, hack]
  | tx =>
    obtain ⟨hsrdy, hack, -⟩ := (stateInv_tx hstate).1 h
    simp [hsrdy, hack]
  | error =>
    obtain ⟨hsrdy, -, hack, -⟩ := (stateInv_error hstate).1 h
    simp [hsrdy, hack]

/-- R37 item 5: MRDY announces a pending message, in every state. -/
theorem announced_pending {x : Slave} (h : stateInv x) (hmrdy : x.mrdy = true) : x.txPending = true := by
  cases hstate : x.state with
  | idle =>
    obtain ⟨-, -, -, -, -, hannounced⟩ := (stateInv_idle hstate).1 h
    exact hannounced hmrdy
  | rx =>
    obtain ⟨-, -, hdown, -⟩ := (stateInv_rx hstate).1 h
    cases hmrdy.symm.trans hdown
  | tx =>
    obtain ⟨-, -, -, hpending, -⟩ := (stateInv_tx hstate).1 h
    exact hpending
  | error =>
    obtain ⟨-, hdown, -⟩ := (stateInv_error hstate).1 h
    cases hmrdy.symm.trans hdown

/-- R37 item 7 after any history: for a count of 1 to 128 the cursor is the count. -/
theorem cursorFollows_eq {count : Word32} {cursor : Fin 129} (h : cursorFollows count cursor) (h1 : 1 ≤ count.toNat)
    (h2 : count.toNat ≤ 128) : cursor.val = count.toNat := by
  unfold cursorFollows at h
  split at h <;> omega

/-- Settles O47: each item of R37 is read off the law of the link state it speaks of. -/
theorem invariantGivesTheStateLaws : Obligations.InvariantGivesTheStateLaws := by
  intro seen s hlink hcursor up
  obtain ⟨⟨-, hup⟩, -⟩ := linkInv_iff.1 hlink
  obtain ⟨laws, -⟩ := hup up
  obtain ⟨hack, hsrdy⟩ := session_lines laws.state
  refine ⟨fun hidle => ?idle, hack, hsrdy, fun hrx => ?rx, fun htx => ?tx, fun hmrdy => ?announced, fun herror => ?error,
    fun a ha => Memory.read_above laws.rx.2 ha, storeOffset_lt _, fun hseen => ?unseen, fun hrx h1 h2 => ?count⟩
  case idle =>
    obtain ⟨hsrdy, hack, hcount, hcur, htx, -⟩ := (stateInv_idle hidle).1 laws.state
    exact ⟨hsrdy, hack, hcount, congrArg Fin.val hcur, htx⟩
  case rx =>
    obtain ⟨-, -, hmrdy, -⟩ := (stateInv_rx hrx).1 laws.state
    exact hmrdy
  case tx =>
    obtain ⟨-, -, hmrdy, -⟩ := (stateInv_tx htx).1 laws.state
    exact hmrdy
  case announced =>
    have hpending := announced_pending laws.state hmrdy
    exact ⟨hpending, pendingIsFrame_length (laws.pending hpending)⟩
  case error =>
    obtain ⟨hsrdy, hmrdy, -⟩ := (stateInv_error herror).1 laws.state
    exact ⟨hsrdy, hmrdy⟩
  case unseen =>
    have hequal := hcursor up hseen
    exact ⟨by omega, hequal⟩
  case count =>
    obtain ⟨-, -, -, -, hfollows⟩ := (stateInv_rx hrx).1 laws.state
    exact cursorFollows_eq hfollows h1 h2

/-- An empty buffer is canonical and inside any capacity. -/
theorem Memory.nil_contained (cap : Nat) : Memory.wf [] ∧ Memory.within cap [] := by
  simp [Memory.wf, Memory.within]

/-- Settles O44: at reset the slave is idle with nothing pending, the master is between operations, and every buffer is
empty. -/
theorem linkInvAtReset : Obligations.LinkInvAtReset := by
  have hstate : stateInv Slave.reset := (stateInv_idle rfl).2 ⟨rfl, rfl, rfl, rfl, rfl, nofun⟩
  have hbuffers : SlaveBuffers Slave.reset Mailbox.reset :=
    ⟨Memory.nil_contained 128, Memory.nil_contained 128, Memory.nil_contained 126⟩
  have hlaws : SlaveLaws Slave.reset Mailbox.reset := ⟨hbuffers, hstate, nofun, nofun⟩
  have hmaster : MasterSide Master.reset := ⟨(Memory.nil_contained 0).1, fun _ => masterInv_of_idle rfl rfl⟩
  exact ⟨linkInv_iff.2 ⟨hlaws.slaveSide (by decide), hmaster⟩, fun _ _ => rfl⟩

/-- Settles O19: each initialisation writes its own side, so both orders end in the same two reset records. -/
theorem initialisationsGiveTheResetState : Obligations.InitialisationsGiveTheResetState := by
  have hslave : execSInit true State.powerOn = .next { State.powerOn with slave := Slave.reset } := rfl
  have hmaster : execMInit State.powerOn = .next { State.powerOn with master := Master.reset } := rfl
  constructor
  · simp only [execAll, exec, hslave]
    rfl
  · simp only [execAll, exec, hmaster]
    rfl

/-! ### The register view -/

/-- Every field fits the bits it is given (R32). -/
theorem fieldValue_lt (f : RegisterField) (s : State) : fieldValue f s < 2 ^ (fieldPlace f).2.2 := by
  cases f
  case rxCursor | txLen => simp only [fieldValue, fieldPlace]; omega
  case mailboxLen => simp only [fieldValue, fieldPlace]; omega
  case csAck | txPending | mbNew | srdy | mrdy | csIn | cs | srdyIn | mrdyIn => exact Bool.toNat_lt _
  all_goals exact BitVec.isLt _

/-- A field at bit 0 of an otherwise empty register reads as its value. -/
theorem toNat_field (f : RegisterField) (s : State) : (BitVec.ofNat 32 (fieldValue f s)).toNat = fieldValue f s := by
  have hwidth : (fieldPlace f).2.2 ≤ 32 := by cases f <;> decide
  exact Nat.mod_eq_of_lt ((fieldValue_lt f s).trans_le (Nat.pow_le_pow_right (by decide) hwidth))

/-- A field put above a word that ends below it adds its value there. -/
theorem toNat_or_field {w : Word32} {n v k : Nat} (hw : w.toNat = n) (hn : n < 2 ^ k) (hfits : 2 ^ k * v < 2 ^ 32) :
    (w ||| BitVec.ofNat 32 v <<< k).toNat = n + 2 ^ k * v := by
  subst hw
  have hv : v < 2 ^ 32 := (Nat.le_mul_of_pos_left v (Nat.two_pow_pos k)).trans_lt hfits
  rw [BitVec.toNat_or, BitVec.toNat_shiftLeft, BitVec.toNat_ofNat, Nat.mod_eq_of_lt hv, Nat.shiftLeft_eq,
    Nat.mul_comm v, Nat.mod_eq_of_lt hfits, Nat.or_comm, ← Nat.two_pow_add_eq_or_of_lt hn, Nat.add_comm]

/-! The registers of several fields, each as the sum of its fields at their places (R32). -/

theorem toNat_sStatus (s : State) : (readRegister .sStatus s).toNat =
    fieldValue .state s + 2 ^ 2 * fieldValue .csAck s + 2 ^ 3 * fieldValue .txPending s +
      2 ^ 4 * fieldValue .mbNew s := by
  have hstate : fieldValue .state s < 4 := fieldValue_lt .state s
  have hack : fieldValue .csAck s < 2 := fieldValue_lt .csAck s
  have hpending : fieldValue .txPending s < 2 := fieldValue_lt .txPending s
  have hnew : fieldValue .mbNew s < 2 := fieldValue_lt .mbNew s
  rw [readRegister_sStatus]
  exact toNat_or_field (toNat_or_field (toNat_or_field (toNat_field .state s) (by omega) (by omega)) (by omega)
    (by omega)) (by omega) (by omega)

theorem toNat_sLines (s : State) : (readRegister .sLines s).toNat =
    fieldValue .srdy s + 2 ^ 1 * fieldValue .mrdy s + 2 ^ 2 * fieldValue .csIn s := by
  have hsrdy : fieldValue .srdy s < 2 := fieldValue_lt .srdy s
  have hmrdy : fieldValue .mrdy s < 2 := fieldValue_lt .mrdy s
  have hcs : fieldValue .csIn s < 2 := fieldValue_lt .csIn s
  rw [readRegister_sLines]
  exact toNat_or_field (toNat_or_field (toNat_field .srdy s) (by omega) (by omega)) (by omega) (by omega)

theorem toNat_mStatus (s : State) :
    (readRegister .mStatus s).toNat = fieldValue .phase s + 2 ^ 2 * fieldValue .op s := by
  have hphase : fieldValue .phase s < 4 := fieldValue_lt .phase s
  have hop : fieldValue .op s < 2 := fieldValue_lt .op s
  rw [readRegister_mStatus]
  exact toNat_or_field (toNat_field .phase s) (by omega) (by omega)

theorem toNat_mLines (s : State) : (readRegister .mLines s).toNat =
    fieldValue .cs s + 2 ^ 1 * fieldValue .srdyIn s + 2 ^ 2 * fieldValue .mrdyIn s := by
  have hcs : fieldValue .cs s < 2 := fieldValue_lt .cs s
  have hsrdy : fieldValue .srdyIn s < 2 := fieldValue_lt .srdyIn s
  have hmrdy : fieldValue .mrdyIn s < 2 := fieldValue_lt .mrdyIn s
  rw [readRegister_mLines]
  exact toNat_or_field (toNat_or_field (toNat_field .cs s) (by omega) (by omega)) (by omega) (by omega)

/-- A register of one field reads as that field (R32). -/
theorem toNat_single (s : State) :
    (readRegister .sDiag s).toNat = fieldValue .diagFlags s ∧ (readRegister .sRxcnt s).toNat = fieldValue .rxCount s ∧
    (readRegister .sRxcur s).toNat = fieldValue .rxCursor s ∧ (readRegister .sTxcnt s).toNat = fieldValue .txCount s ∧
    (readRegister .sTxlen s).toNat = fieldValue .txLen s ∧ (readRegister .sTstart s).toNat = fieldValue .tStart s ∧
    (readRegister .sNow s).toNat = fieldValue .slaveNow s ∧ (readRegister .mbLen s).toNat = fieldValue .mailboxLen s ∧
    (readRegister .mNow s).toNat = fieldValue .masterNow s := by
  obtain ⟨hdiag, hrxcnt, hrxcur, htxcnt, htxlen, htstart, hnow, hmbox, hmnow⟩ := readRegister_single s
  rw [hdiag, hrxcnt, hrxcur, htxcnt, htxlen, htstart, hnow, hmbox, hmnow]
  and_intros <;> exact toNat_field _ s

/-- Each field reads back from its place in its register (R32). -/
theorem fieldValue_eq (f : RegisterField) (s : State) :
    (readRegister (fieldPlace f).1 s).toNat / 2 ^ (fieldPlace f).2.1 % 2 ^ (fieldPlace f).2.2 = fieldValue f s := by
  have hlt := fun f => fieldValue_lt f s
  obtain ⟨hdiag, hrxcnt, hrxcur, htxcnt, htxlen, htstart, hnow, hmbox, hmnow⟩ := toNat_single s
  cases f
  case state | csAck | txPending | mbNew =>
    have h0 := hlt .state; have h2 := hlt .csAck; have h3 := hlt .txPending; have h4 := hlt .mbNew
    simp only [fieldPlace, toNat_sStatus] at *
    omega
  case srdy | mrdy | csIn =>
    have h0 := hlt .srdy; have h1 := hlt .mrdy; have h2 := hlt .csIn
    simp only [fieldPlace, toNat_sLines] at *
    omega
  case phase | op =>
    have h0 := hlt .phase; have h2 := hlt .op
    simp only [fieldPlace, toNat_mStatus] at *
    omega
  case cs | srdyIn | mrdyIn =>
    have h0 := hlt .cs; have h1 := hlt .srdyIn; have h2 := hlt .mrdyIn
    simp only [fieldPlace, toNat_mLines] at *
    omega
  -- a register of one field, at bit 0
  all_goals simp only [fieldPlace, pow_zero, Nat.div_one, *]; exact Nat.mod_eq_of_lt (hlt _)

/-- The access columns of R32, as the lists of the fields each side may read. -/
theorem mayRead_iff (f : RegisterField) :
    (mayRead .slaveApplication f = true ↔
      f ∈ [.state, .csAck, .txPending, .mbNew, .srdy, .mrdy, .csIn, .diagFlags, .rxCount, .rxCursor, .txCount, .txLen,
        .tStart, .slaveNow, .mailboxLen, .cs]) ∧
    (mayRead .masterCaller f = true ↔ f ∈ [.srdy, .mrdy, .phase, .op, .cs, .srdyIn, .mrdyIn, .masterNow]) := by
  cases f <;> decide

/-- The flags of `S_DIAG` are the five low bits of the diagnostic word (R31). -/
theorem fieldValue_diagFlags (s : State) : fieldValue .diagFlags s = s.slave.diag.toNat % 32 := by
  simp [fieldValue, zext]

/-- Settles O41: each register is the sum of its fields at their places, and each field is its element. -/
theorem registerViewHoldsItsFields : Obligations.RegisterViewHoldsItsFields := by
  refine ⟨fun s => ?_, mayRead_iff⟩
  obtain ⟨hdiag, hrxcnt, hrxcur, htxcnt, htxlen, htstart, hnow, hmbox, hmnow⟩ := toNat_single s
  refine ⟨?status, toNat_sLines s, hdiag.trans (fieldValue_diagFlags s), BitVec.eq_of_toNat_eq hrxcnt, hrxcur,
    BitVec.eq_of_toNat_eq htxcnt, htxlen, BitVec.eq_of_toNat_eq htstart, BitVec.eq_of_toNat_eq hnow, hmbox, ?mstatus,
    toNat_mLines s, BitVec.eq_of_toNat_eq hmnow, fun f => fieldValue_eq f s, rfl⟩
  case status =>
    rw [toNat_sStatus]
    simp only [fieldValue]
    cases s.slave.state <;> rfl
  case mstatus =>
    rw [toNat_mStatus]
    simp only [fieldValue]
    cases s.master.phase <;> cases s.master.op <;> rfl

end Sys2Proof.Machine

/-! PROOFS. From bytes to the frame they hold and back: what decodes is a row of the table that encodes to the bytes it was read
from (R78, R104, R114), and the completing tick runs the row that the held bytes decode to (R87, R190). -/

namespace Sys2Proof

/-! ### What the decoder reads -/

/-- The row of the table that COMMAND alone chooses for a header with SYNC (R109). -/
def selectedRow (len command : Byte) (payload : List Byte) : Instr :=
  if command = Config.link.cmdTest then .test len payload
  else if command = Config.link.cmdTestResponse then .testResponse len payload
  else if command.getLsbD 7 then .app len command payload
  else .board len command payload

/-- A whole header with SYNC decodes to the row of its command (R104, R109). -/
theorem decode_header (len command : Byte) (rest : List Byte) :
    decode (Config.link.sync :: len :: command :: rest) = .ok (selectedRow len command (rest.take (len.toNat - 1))) := by
  obtain ⟨htest, hresponse, hboard, happ⟩ := rowSelects_iff len command
  simp only [decode, decodeHeader, selectedRow, if_true, htest, hresponse, hboard, happ, decide_eq_true_eq,
    apply_ite Except.ok]
  cases command.getLsbD 7 <;> rfl

/-- What decodes is a whole header with SYNC and the payload its LENGTH announces, as far as it was supplied (R104, R114). -/
theorem decode_ok_iff {bytes : List Byte} {i : Instr} :
    decode bytes = .ok i ↔ ∃ len command rest, bytes = Config.link.sync :: len :: command :: rest ∧
      i = selectedRow len command (rest.take (len.toNat - 1)) := by
  constructor
  · intro h
    match bytes with
    | [] => cases h
    | [sync] | [sync, len] =>
      simp only [decode] at h
      split at h <;> cases h
    | sync :: len :: command :: rest =>
      by_cases hsync : sync = Config.link.sync
      · subst hsync
        rw [decode_header] at h
        exact ⟨len, command, rest, rfl, (Except.ok.inj h).symm⟩
      · rw [decode, if_neg hsync] at h
        cases h
  · rintro ⟨len, command, rest, rfl, rfl⟩
    exact decode_header len command rest

/-- The selected row is encoded by its three header bytes and its payload (R100). -/
theorem encode_selectedRow (len command : Byte) (payload : List Byte) :
    encode (selectedRow len command payload) = some (frameBytes len command payload) := by
  unfold selectedRow
  split_ifs with htest hresponse
  · rw [htest, encode]
  · rw [hresponse, encode]
  · rfl
  · rfl

/-- The selected row is a row of the table itself, not a named refinement of one (R109). -/
theorem tableRow_selectedRow (len command : Byte) (payload : List Byte) :
    tableRow (selectedRow len command payload) = selectedRow len command payload := by
  unfold selectedRow
  split_ifs <;> rfl

/-- Cutting the payload to the `LENGTH - 1` bytes announced cuts the frame after them, but never inside the header (R114). -/
theorem frameBytes_take (len command : Byte) (rest : List Byte) :
    frameBytes len command (rest.take (len.toNat - 1)) = (frameBytes len command rest).take (max 3 (2 + len.toNat)) := by
  have hcut : max 3 (2 + len.toNat) = len.toNat - 1 + 3 := by omega
  rw [hcut]
  rfl

/-- Settles O3: what decodes is a whole header, whose selected row re-encodes to the bytes up to the cut. -/
theorem decodedFramesReencode : Obligations.DecodedFramesReencode := by
  intro bytes i h
  obtain ⟨len, command, rest, rfl, rfl⟩ := decode_ok_iff.1 h
  refine ⟨?_, tableRow_selectedRow len command _⟩
  rw [encode_selectedRow, frameBytes_take]
  rfl

end Sys2Proof

namespace Sys2Proof.Machine

/-! ### The completing tick runs what the held bytes decode to -/

/-- The selected row, of an initialised slave, delivers the bytes of its frame, as far as a buffer holds them (R102, R190). -/
theorem exec_selectedRow {s : State} (up : s.slave.inited = true) (len command : Byte) (payload : List Byte) :
    exec (selectedRow len command payload) s =
      .next (deliverBytes ((frameBytes len command payload).take Config.link.bufCap) s) := by
  have delivered (name : String) (c : Byte) : deliverFrame name len c payload s =
      .next (deliverBytes ((frameBytes len c payload).take Config.link.bufCap) s) :=
    whenEnabled_next.2 ⟨up, rfl⟩
  unfold selectedRow
  split_ifs with htest hresponse
  · rw [htest]
    exact delivered "TEST" _
  · rw [hresponse]
    exact delivered "TEST_RESPONSE" _
  · exact delivered "APP" command
  · exact delivered "BOARD" command

/-- `F.VALIDATE` of a whole header with SYNC: LENGTH in range, then enough bytes (R140). -/
theorem validateFrame_frameBytes (len command : Byte) (payload : List Byte) :
    validateFrame (frameBytes len command payload) =
      if len.toNat < 1 ∨ 254 < len.toNat then .error .truncated
      else if payload.length + 3 < 2 + len.toNat then .error .truncated
      else .ok { length := len.toNat, command := command, payload := payload.take (len.toNat - 1) } := rfl

/-- `F.VALIDATE` does not see the bytes that the decoder cuts off as surplus (R114, R143). -/
theorem validateFrame_cut (len command : Byte) (rest : List Byte) :
    validateFrame (frameBytes len command (rest.take (len.toNat - 1))) = validateFrame (frameBytes len command rest) := by
  have hshort : (rest.take (len.toNat - 1)).length + 3 < 2 + len.toNat ↔ rest.length + 3 < 2 + len.toNat := by
    rw [List.length_take]
    omega
  simp only [validateFrame_frameBytes, hshort, List.take_take, min_self]

/-- Of bytes that fit a buffer, the row they decode to delivers what the completing poll delivers: all of them (R190). -/
theorem exec_decoded {i : Instr} {bytes : List Byte} {s : State} (up : s.slave.inited = true)
    (fits : bytes.length ≤ Config.link.bufCap) (h : decode bytes = .ok i) :
    exec i s = .next (deliverBytes bytes s) := by
  obtain ⟨len, command, rest, rfl, rfl⟩ := decode_ok_iff.1 h
  have cut_fits : (frameBytes len command (rest.take (len.toNat - 1))).length ≤ Config.link.bufCap := by
    rw [frameBytes_take]
    exact (List.length_take_le' _ _).trans fits
  rw [exec_selectedRow up, List.take_of_length_le cut_fits]
  unfold deliverBytes
  rw [validateFrame_cut]
  rfl

/-- `S.TICK` of an initialised slave always answers, with the poll of the state with the counter advanced (R182). -/
theorem execSTick_eq {s : State} (up : s.slave.inited = true) : exec .sTick s = .next (poll (ticked s)) :=
  whenEnabled_next.2 ⟨up, rfl⟩

/-- With chip-select deasserted the poll in `RX` completes the session with the bytes held of it (R190). -/
theorem poll_completes {s : State} (rx : s.slave.state = .rx) (released : csLine s = false) :
    poll s = closeRx (deliverBytes (heldBytes s) s) := by
  rw [poll, rx, pollRx, if_pos released]

/-- A tick that finds chip-select deasserted completes the `RX` session with the bytes held of it (R182, R190). -/
theorem step_completes {s : State} (up : s.slave.inited = true) (rx : s.slave.state = .rx) (released : csLine s = false)
    (next : nextEvent s = .sTick) : step s = .next (closeRx (deliverBytes (heldBytes s) (ticked (afterChoice s)))) := by
  have enabled_tick : EventEnabled (nextEvent s) s := .inr (.inr (.inl ⟨up, .inl next⟩))
  obtain ⟨hslave, -, hmaster⟩ := afterChoice_link s
  have held : heldBytes (ticked (afterChoice s)) = heldBytes s := by simp [heldBytes, ticked, hslave]
  rw [← hslave] at up rx
  have released' : csLine (ticked (afterChoice s)) = false := by simpa [csLine, masterUp, ticked, hmaster] using released
  rw [step_of_eventEnabled enabled_tick, next, execSTick_eq up, poll_completes (s := ticked _) rx released', held]

/-- Settles O43: the tick's poll delivers the held bytes, which is what the row they decode to does, and ends the session. -/
theorem stepRunsTheDecodedFrame : Obligations.StepRunsTheDecodedFrame := by
  intro i rest s up rx released hscript hdecode
  obtain ⟨next, hafter⟩ := nextEvent_afterChoice (i := .sTick) (.inl ⟨rest, hscript, rfl⟩)
  refine ⟨_, exec_decoded up (length_heldBytes s) hdecode, ?_⟩
  rw [step_completes up rx released next, hafter]
  rfl

end Sys2Proof.Machine

/-! PROOFS. The encoding of the fourteen frame rows: a named row shares its bytes, its decoding and its meaning with the class row
it refines (R104, R107, R109), a well-formed row decodes back from its bytes (R100), and a malformed frame is discarded (R102, R112,
R191). -/

namespace Sys2Proof

/-! ### The named rows and their class rows -/

/-- The commands of row `BOARD` are those below the self-test pair (R109). -/
theorem isBoardCommand_iff {c : Byte} : isBoardCommand c = true ↔ c.toNat < 126 := by
  simp only [isBoardCommand, Bool.and_eq_true, decide_eq_true_eq]
  bv_omega

/-- The commands of row `APP` are those from `0x80` on (R106). -/
theorem isAppCommand_iff {c : Byte} : isAppCommand c = true ↔ 128 ≤ c.toNat := by
  simp only [isAppCommand, decide_eq_true_eq]
  bv_omega

/-- A frame row is encoded as its row of the table is (R109). -/
theorem encode_tableRow (i : Instr) : encode (tableRow i) = encode i := by cases i <;> rfl

/-- The row of a row of the table is that row. -/
theorem tableRow_tableRow (i : Instr) : tableRow (tableRow i) = tableRow i := by cases i <;> rfl

/-- The class row of a well-formed named row is well formed: the named values lie in their class (R7). -/
theorem tableRow_wellFormed {i : Instr} (wf : i.WellFormed = true) : (tableRow i).WellFormed = true := by
  cases i
  case led | lcdMessage | debugLog | buzzer =>
    exact Bool.and_eq_true_iff.2 ⟨wf, isBoardCommand_iff.2 (boardCommand_lt _)⟩
  case syncCheck | reset | gameRequest | gameMove | ack | nack =>
    exact Bool.and_eq_true_iff.2 ⟨wf, isAppCommand_iff.2 (appCommand_ge _)⟩
  all_goals exact wf

/-- A named row is the refinement of its class row, because the named values differ (R7, R109). -/
theorem refineNamed_tableRow (i : Instr) : refineNamed (tableRow i) = refineNamed i := by
  cases i
  case led | lcdMessage | debugLog | buzzer => simp [tableRow, refineNamed, boardCommand_inj]
  case syncCheck | reset | gameRequest | gameMove | ack | nack => simp [tableRow, refineNamed, appCommand_inj]
  all_goals rfl

/-- Refining a class row to a named row keeps its bytes. -/
theorem encode_refineNamed (i : Instr) : encode (refineNamed i) = encode i := by
  cases i
  case board | app =>
    simp only [refineNamed]
    split_ifs <;> simp [encode, *]
  all_goals rfl

/-- Only a row with bytes is refined. -/
theorem refineNamed_of_encode_none {i : Instr} (h : encode i = none) : refineNamed i = i := by
  cases i
  case board | app => cases h
  all_goals rfl

/-! ### Decoding what was encoded -/

/-- A LENGTH that fits announces exactly the payload that follows (R103). -/
theorem take_of_lengthFits {len : Byte} {payload : List Byte} (h : lengthFits len payload = true) :
    payload.take (len.toNat - 1) = payload := by
  simp only [lengthFits, Bool.and_eq_true, decide_eq_true_eq] at h
  exact List.take_of_length_le (by omega)

/-- A well-formed row of the table decodes from its bytes to itself (R100, R104). -/
theorem decode_encode_of_tableRow {i : Instr} {bytes : List Byte} (row : tableRow i = i) (wf : i.WellFormed = true)
    (h : encode i = some bytes) : decode bytes = .ok i := by
  cases i <;> cases h
  case test len payload =>
    rw [frameBytes, decode_header, take_of_lengthFits wf, selectedRow, if_pos rfl]
  case testResponse len payload =>
    rw [frameBytes, decode_header, take_of_lengthFits wf, selectedRow, if_neg (by decide), if_pos rfl]
  case board len command payload =>
    obtain ⟨fits, below⟩ := Bool.and_eq_true_iff.1 wf
    rw [frameBytes, decode_board (isBoardCommand_iff.1 below), take_of_lengthFits fits]
  case app len command payload =>
    obtain ⟨fits, above⟩ := Bool.and_eq_true_iff.1 wf
    rw [frameBytes, decode_app (isAppCommand_iff.1 above), take_of_lengthFits fits]
  -- a named row is not its own row of the table
  all_goals cases row

/-- A well-formed frame row decodes from its bytes to its row of the table (R109). -/
theorem decode_encode {i : Instr} {bytes : List Byte} (wf : i.WellFormed = true) (h : encode i = some bytes) :
    decode bytes = .ok (tableRow i) :=
  decode_encode_of_tableRow (tableRow_tableRow i) (tableRow_wellFormed wf) ((encode_tableRow i).trans h)

/-- Settles O2: the bytes decode to the table row, whose refinement is that of the row itself. -/
theorem encodedFramesDecode : Obligations.EncodedFramesDecode := by
  intro i bytes wf h
  refine ⟨decode_encode wf h, fun refined => ?_⟩
  simp only [decodeNamed, decode_encode wf h, refineNamed_tableRow, refined]

/-- Settles O4: each word is cut into its bytes and decoded by evaluation. -/
theorem tableWordsDecodeToTheirRows : Obligations.TableWordsDecodeToTheirRows := by
  refine ⟨?test, ?testResponse, ?board, ?app, ?payload, ?noSync⟩ <;> decide

/-- Without SYNC nothing decodes, whatever follows (R142). -/
theorem decode_noSync {sync : Byte} (h : sync ≠ Config.link.sync) (rest : List Byte) :
    decode (sync :: rest) = .error .badSync := by
  match rest with
  | [] | [_] | _ :: _ :: _ => exact if_neg h

end Sys2Proof

namespace Sys2Proof.Machine

/-! ### What a frame row does is said by its bytes -/

/-- Any row with bytes delivers, of an initialised slave, as many of them as a buffer holds (R102, R190). -/
theorem exec_of_encode {i : Instr} {bytes : List Byte} {s : State} (up : s.slave.inited = true)
    (h : encode i = some bytes) : exec i s = .next (deliverBytes (bytes.take Config.link.bufCap) s) := by
  cases i <;> cases h
  all_goals exact whenEnabled_next.2 ⟨up, rfl⟩

/-- Refining a class row changes nothing that an initialised slave does with it: the bytes are the same (R109). -/
theorem exec_refineNamed {s : State} (up : s.slave.inited = true) (i : Instr) : exec (refineNamed i) s = exec i s := by
  cases h : encode i with
  | none => rw [refineNamed_of_encode_none h]
  | some bytes => rw [exec_of_encode up h, exec_of_encode up ((encode_refineNamed i).trans h)]

/-- Settles O5: without SYNC nothing decodes, with it the selected row does; refinement keeps the bytes and so the meaning. -/
theorem headerDecodesByCommandAlone : Obligations.HeaderDecodesByCommandAlone := by
  refine ⟨fun sync len command rest => ?_, fun i s up => exec_refineNamed up i⟩
  by_cases hsync : sync = 0x5A
  · rw [hsync, decode_header, if_neg (not_not.2 rfl)]
    simp only [selectedRow, apply_ite Except.ok]
    cases command.getLsbD 7 <;> rfl
  · rw [if_pos hsync, decode_noSync hsync]

/-! ### Malformed frames are discarded -/

/-- A buffer cuts a frame after the header, in its payload (R102). -/
theorem take_bufCap_frameBytes (len command : Byte) (payload : List Byte) :
    (frameBytes len command payload).take Config.link.bufCap = frameBytes len command (payload.take 125) := rfl

/-- Every frame has its LENGTH byte at offset 1 and is encoded whole (R100). -/
theorem encode_eq_some {i : Instr} {bytes : List Byte} (h : encode i = some bytes) :
    ∃ len command payload, bytes = frameBytes len command payload := by
  cases i <;> cases h
  all_goals exact ⟨_, _, _, rfl⟩

/-- `F.VALIDATE` refuses what a buffer holds of a frame with an invalid LENGTH, or holds too little of (R102, R112). -/
theorem validateFrame_malformed {len command : Byte} {payload : List Byte}
    (bad : len = 0 ∨ len = 255 ∨ min (frameBytes len command payload).length 128 < 2 + len.toNat) :
    validateFrame ((frameBytes len command payload).take Config.link.bufCap) = .error .truncated := by
  rw [take_bufCap_frameBytes, validateFrame_frameBytes, List.length_take]
  by_cases range : len.toNat < 1 ∨ 254 < len.toNat
  · rw [if_pos range]
  · have short : min 125 payload.length + 3 < 2 + len.toNat := by
      obtain rfl | rfl | short := bad
      · exact absurd (.inl (by decide)) range
      · exact absurd (.inr (by decide)) range
      · simp only [frameBytes, List.length_cons] at short
        omega
    rw [if_neg range, if_pos short]

/-- Settles O14: what is delivered of a malformed frame is refused by `F.VALIDATE`, and the refusal sets `FORMAT_ERROR`. -/
theorem malformedFramesAreDiscarded : Obligations.MalformedFramesAreDiscarded := by
  intro i bytes s h up bad
  obtain ⟨len, command, payload, rfl⟩ := encode_eq_some h
  rw [exec_of_encode up h, deliverBytes, validateFrame_malformed (len := len) bad]
  rfl

end Sys2Proof.Machine

/-! PROOFS. The framed-message parser (R130 to R147): what its two instructions answer on any operands, and that encoding and
validating invert each other; and where the dispatcher stops on an operand that the parser cannot hand over. -/

namespace Sys2Proof.Machine

/-! ### The two instructions -/

/-- Settles O6: the result is a frame or `EncodeError` as the payload's length decides. -/
theorem encodeOperationResult : Obligations.EncodeOperationResult := by
  intro command payload s
  have result : encodeResult command payload = if payload.length ≤ 125 then
      .encoded ([0x5A, BitVec.ofNat 8 (1 + payload.length), command] ++ payload) else .encodeError := by
    rw [encodeResult, encodeFrame_eq]
    split_ifs <;> rfl
  rw [← result]
  rfl

/-- Without SYNC in front `F.VALIDATE` fails with `BadSync`, whatever follows (R142). -/
theorem validateFrame_noSync {sync : Byte} (h : sync ≠ Config.link.sync) (rest : List Byte) :
    validateFrame (sync :: rest) = .error .badSync := if_pos h

/-- After SYNC `F.VALIDATE` tests LENGTH, then that all the bytes it announces are there, COMMAND among them (R140, R141). -/
theorem validateFrame_header (len : Byte) (body : List Byte) :
    validateFrame (Config.link.sync :: len :: body) =
      if len.toNat < 1 ∨ 254 < len.toNat then .error .truncated
      else if body.length + 2 < 2 + len.toNat then .error .truncated
      else .ok { length := len.toNat, command := body.getD 0 0, payload := (body.drop 1).take (len.toNat - 1) } := by
  match body with
  | command :: payload => rfl
  | [] =>
    by_cases range : len.toNat < 1 ∨ 254 < len.toNat
    · exact (if_pos range).trans (if_pos range).symm
    · have missing : ([] : List Byte).length + 2 < 2 + len.toNat := by
        rw [List.length_nil]
        omega
      rw [if_neg range, if_pos missing]
      exact (if_neg range).trans (if_pos missing)

/-- Settles O7: the bytes hold nothing, SYNC alone, or SYNC and LENGTH, and `F.VALIDATE` tests them in the order of R140. -/
theorem validateOperationResult : Obligations.ValidateOperationResult := by
  intro bytes s
  refine congrArg (fun r => Host.Outcome.next (s.withEnv { s.env with parserRet := some r }))
    (?_ : validateResult bytes = _)
  unfold validateResult
  match bytes with
  | [] => rfl
  | sync :: rest =>
    by_cases hsync : sync = Config.link.sync
    case neg => rw [validateFrame_noSync hsync, if_pos (.inr hsync)]
    case pos =>
      subst hsync
      rw [if_neg (by simp)]
      match rest with
      | [] => rfl
      | len :: body =>
        have payload_eq : ((Config.link.sync :: len :: body).take (2 + len.toNat)).drop 3 =
            (body.drop 1).take (len.toNat - 1) := by
          rw [List.drop_take, show 2 + len.toNat - 3 = len.toNat - 1 by omega]
          rfl
        have supplied : ¬ (Config.link.sync :: len :: body).length < 2 := by simp
        rw [if_neg supplied, validateFrame_header]
        simp only [List.getD_cons_succ, List.getD_cons_zero, List.length_cons, payload_eq]
        split_ifs <;> rfl

/-! ### Encoding and validating invert each other -/

/-- Settles O8: the LENGTH byte of an encoding holds `1 + len(payload)` and announces the whole payload. -/
theorem validateInvertsEncode : Obligations.ValidateInvertsEncode := by
  intro command payload short
  have length_byte : (BitVec.ofNat 8 (1 + payload.length)).toNat = 1 + payload.length :=
    Nat.mod_eq_of_lt (by omega)
  refine ⟨_, (encodeFrame_eq command payload).trans (if_pos short), validateFrame_ok.2 ?_⟩
  refine ⟨_, payload, rfl, length_byte.symm, ?_⟩
  rw [length_byte, List.take_of_length_le (by omega)]
  exact ⟨by omega, by omega, by omega, rfl⟩

/-- Settles O9: the payload is what LENGTH announces after COMMAND, and the header stands before it. -/
theorem validatedFrameLengths : Obligations.ValidatedFrameLengths := by
  intro bytes f h
  obtain ⟨len, rest, rfl, hlength, positive, le_max, enough, hpayload⟩ := validateFrame_ok.1 h
  have payload_length : f.payload.length = len.toNat - 1 := by rw [hpayload, List.length_take_of_le enough]
  have header_and_payload : 2 + len.toNat = len.toNat - 1 + 3 := by omega
  rw [hlength, payload_length]
  refine ⟨by omega, positive, le_max, by simp only [List.length_cons]; omega, ?_⟩
  rw [header_and_payload, hpayload, BitVec.ofNat_toNat, BitVec.setWidth_eq]
  rfl

/-- Settles O10: the leading bytes of a validated frame (R146) are what its command and payload encode to. -/
theorem reencodeGivesThePrefix : Obligations.ReencodeGivesThePrefix := by
  intro bytes f h fits
  obtain ⟨hlength, -, -, -, hleading⟩ := validatedFrameLengths bytes f h
  rw [hleading, hlength, encodeFrame_eq, if_pos (by omega)]
  rfl

/-! ### The dispatcher outside its operands -/

/-- `D.DISPATCH` of an initialised slave tests its operand, then that an application frame fits the mailbox (R130, R15). -/
theorem exec_dDispatch {s : State} (up : s.slave.inited = true) (f : Frame) :
    exec (.dDispatch f) s =
      if f.WellFormed = false then .refused .illFormedFrame
      else if 0x80 ≤ f.command ∧ 126 < f.length then .fault (.outOfBounds .mbox)
      else .next (dispatchFrame f s) :=
  congrArg (whenEnabled · "D.DISPATCH" _) up

/-- Settles O17: the tests of the operand come before the dispatch. -/
theorem dispatchOutsideItsOperands : Obligations.DispatchOutsideItsOperands := by
  intro f s up
  rw [exec_dDispatch up]
  refine ⟨fun ill => if_pos ill, fun wf app long => ?_⟩
  rw [if_neg (by simp [wf]), if_pos ⟨app, long⟩]

end Sys2Proof.Machine

/-! PROOFS. The handshake and the arbiter: the direction both sides see (R156), the exchange as the slave's callback (R165), and
the sessions of R161 to R163 event by event. A session is a start, the tick that opens it, the wait that finds SRDY, the
clocked bytes, and the settle step; the handshake and the end are shared, and the clocking is an induction over its bytes. -/

namespace Sys2Proof.Machine

/-! ### The lines and the exchange -/

/-- Settles O54: inside a session MRDY is what the law of its link state says. -/
theorem directionAgreement : Obligations.DirectionAgreement := by
  intro s hlink hsrdy
  obtain ⟨up, srdy⟩ := Bool.and_eq_true_iff.1 hsrdy
  obtain ⟨⟨-, hup⟩, -⟩ := linkInv_iff.1 hlink
  obtain ⟨laws, -⟩ := hup up
  obtain hrx | htx := (session_lines laws.state).2.1 srdy
  · obtain ⟨-, -, hmrdy, -⟩ := (stateInv_rx hrx).1 laws.state
    simp [mrdyLine, hmrdy, hrx]
  · obtain ⟨-, -, hmrdy, -⟩ := (stateInv_tx htx).1 laws.state
    simp [mrdyLine, up, hmrdy, htx]

/-- `XFER` where it is enabled is the exchange (R165). -/
theorem exec_xfer {s : State} (up : s.master.inited = true) (clock : s.master.phase = .clock) (cs : s.master.cs = true)
    (b : Byte) : exec (.xfer b) s = .next (exchange b s) :=
  whenEnabled_next.2 ⟨Bool.and_eq_true_iff.2 ⟨(inPhase_iff s).2 ⟨up, clock⟩, cs⟩, rfl⟩

/-- The callback outside a session is a draw (R198). -/
theorem exec_sByteOther {s : State} (up : s.slave.inited = true) (outside : s.slave.state = .idle ∨ s.slave.state = .error)
    (b : Byte) : exec (.sByteOther b) s = .next (shiftDraw s) :=
  whenEnabled_next.2 ⟨Bool.or_eq_true_iff.2 (outside.imp (fun h => (slaveIn_iff s).2 ⟨up, h⟩)
    fun h => (slaveIn_iff s).2 ⟨up, h⟩), rfl⟩

/-- Settles O28: in each link state the exchange is that state's callback row. -/
theorem exchangeRunsTheCallback : Obligations.ExchangeRunsTheCallback := by
  intro b s up clock cs
  rw [exec_xfer up clock cs]
  refine ⟨⟨_, rfl⟩, ?_⟩
  rcases exchange_cases s b with ⟨down, he⟩ | ⟨sup, outside, he⟩ | ⟨sup, hrx, he⟩ | ⟨sup, htx, he⟩ <;> rw [he]
  · rw [if_neg (by simp [down])]
    rfl
  · rw [if_pos sup, exec_sByteOther sup outside]
    obtain hidle | herror := outside
    · rw [hidle]
    · rw [herror]
  · rw [if_pos sup, hrx]
    exact (whenEnabled_next.2 ⟨(slaveIn_iff s).2 ⟨sup, hrx⟩, rfl⟩).symm
  · rw [if_pos sup, htx]
    exact (whenEnabled_next.2 ⟨(slaveIn_iff s).2 ⟨sup, htx⟩, rfl⟩).symm

/-! ### Operations one after the other -/

/-- A sequence that begins with one that completes goes on from where that one ends. -/
theorem execAll_append {first : List Instr} {s u : State} (h : execAll first s = .next u) (rest : List Instr) :
    execAll (first ++ rest) s = execAll rest u := by
  induction first generalizing s with
  | nil =>
    obtain rfl := Host.Outcome.next.inj h
    rfl
  | cons i first ih =>
    simp only [List.cons_append, execAll] at h ⊢
    cases hi : exec i s <;> rw [hi] at h
    case next t => exact ih h
    all_goals cases h

/-- A first operation that completes leaves the rest to run. -/
theorem execAll_cons {i : Instr} {s u : State} (h : exec i s = .next u) (rest : List Instr) :
    execAll (i :: rest) s = execAll rest u := by
  rw [execAll, h]

/-- One operation repeated: what holds at the start with count 0, and passes from each count to the next, holds at the end. -/
theorem execAll_replicate {P : Nat → State → Prop} {i : Instr} {n : Nat}
    (next : ∀ k t, k < n → P k t → ∃ u, exec i t = .next u ∧ P (k + 1) u) {s : State} (start : P 0 s) :
    ∃ t, execAll (List.replicate n i) s = .next t ∧ P n t := by
  induction n with
  | zero => exact ⟨s, rfl, start⟩
  | succ n ih =>
    obtain ⟨t, hrun, ht⟩ := ih fun k t hk => next k t (hk.trans n.lt_succ_self)
    obtain ⟨u, hexec, hu⟩ := next n t n.lt_succ_self ht
    refine ⟨u, ?_, hu⟩
    rw [List.replicate_succ', execAll_append hrun, execAll_cons hexec]
    rfl

/-! ### The handshake: start, tick, wait -/

/-- The master record once `M.SEND` has started (R235). -/
def sendStarted (bytes : List Byte) (m : Master) : Master :=
  { m with op := .send, tx := bytes, n := bytes.length, idx := 0, cs := true, tStart := m.now, phase := .wait }

/-- The master record once `M.RECV` has started (R245). -/
def recvStarted (cap : Nat) (m : Master) : Master :=
  { m with op := .recv, cap := cap, idx := 0, expected := 2, cs := true, tStart := m.now, phase := .wait }

/-- `M.SEND` between operations starts one (R235). -/
theorem exec_mSend {s : State} (up : s.master.inited = true) (idle : s.master.phase = .idle) (bytes : List Byte) :
    exec (.mSend bytes) s = .next (s.withMaster (sendStarted bytes s.master)) :=
  whenEnabled_next.2 ⟨(inPhase_iff s).2 ⟨up, idle⟩, rfl⟩

/-- `M.RECV` between operations starts one (R245). -/
theorem exec_mRecv {s : State} (up : s.master.inited = true) (idle : s.master.phase = .idle) (cap : Nat) :
    exec (.mRecv cap) s = .next (s.withMaster (recvStarted cap s.master)) :=
  whenEnabled_next.2 ⟨(inPhase_iff s).2 ⟨up, idle⟩, rfl⟩

/-- The state after the slave's tick has answered a master that waits with record `m` (R185). -/
def sessionOpened (m : Master) (s : State) : State := openSession (ticked (s.withMaster m))

@[simp] theorem sessionOpened_master (m : Master) (s : State) : (sessionOpened m s).master = m := rfl

@[simp] theorem sessionOpened_mailbox (m : Master) (s : State) : (sessionOpened m s).mailbox = s.mailbox := rfl

@[simp] theorem sessionOpened_slave (m : Master) (s : State) : (sessionOpened m s).slave = { s.slave with
    now := s.slave.now + 1, tStart := s.slave.now + 1, csAck := true, srdy := true,
    state := if s.slave.mrdy then .tx else .rx } := rfl

/-- The tick of an idle slave that samples chip-select asserted opens a session (R182, R185). -/
theorem exec_sTick_opens {s : State} (up : s.slave.inited = true) (idle : s.slave.state = .idle)
    (selected : csLine s = true) : exec .sTick s = .next (openSession (ticked s)) := by
  have selected' : csLine (ticked s) = true := selected
  rw [execSTick_eq up, poll, ticked_state, idle, pollIdle, if_pos selected']

/-- `M.WAIT` with SRDY asserted takes the readiness branch (R236). -/
theorem exec_mWait_ready {s : State} (up : s.master.inited = true) (waiting : s.master.phase = .wait)
    (ready : srdyLine s = true) : exec .mWait s = .next (masterReady s) :=
  whenEnabled_next.2 ⟨(inPhase_iff s).2 ⟨up, waiting⟩, by rw [if_pos ready]⟩

/-- An operation that starts against an idle slave finds SRDY asserted after one tick, and is ready (R158, R185, R236). -/
theorem execAll_handshake {i : Instr} {m : Master} {s : State} (start : exec i s = .next (s.withMaster m))
    (slave_up : s.slave.inited = true) (idle : s.slave.state = .idle) (master_up : m.inited = true)
    (waiting : m.phase = .wait) (selected : m.cs = true) :
    execAll [i, .sTick, .mWait] s = .next (masterReady (sessionOpened m s)) := by
  have cs_asserted : csLine (s.withMaster m) = true := Bool.and_eq_true_iff.2 ⟨master_up, selected⟩
  have opens : exec .sTick (s.withMaster m) = .next (sessionOpened m s) := exec_sTick_opens slave_up idle cs_asserted
  have answered : srdyLine (sessionOpened m s) = true := Bool.and_eq_true_iff.2 ⟨slave_up, rfl⟩
  rw [execAll_cons start, execAll_cons opens, execAll_cons (exec_mWait_ready master_up waiting answered)]
  rfl

/-- A `send` that samples MRDY asserted is over with `Busy` (R238). -/
theorem masterReady_busy {s : State} (op : s.master.op = .send) (announced : mrdyLine s = true) :
    masterReady s = returnMaster .errBusy (s.withMaster { s.master with phase := .idle }) := by
  rw [masterReady, op]
  exact if_pos announced

/-- A `send` that samples MRDY deasserted goes on to the clocking (R238). -/
theorem masterReady_send {s : State} (op : s.master.op = .send) (clear : mrdyLine s = false) :
    masterReady s = s.withMaster { s.master with phase := .clock } := by
  rw [masterReady, op]
  exact if_neg (by simp [clear])

/-- A `receive` goes on to the clocking whatever MRDY is (R246). -/
theorem masterReady_recv {s : State} (op : s.master.op = .recv) :
    masterReady s = s.withMaster { s.master with phase := .clock } := by
  rw [masterReady, op]

/-- Settles O59: the tick opens a `TX` session, whose MRDY the wait finds asserted. -/
theorem busyCollision : Obligations.BusyCollision := by
  intro bytes s hlink slave_up master_up idle announced master_idle
  obtain ⟨⟨-, hup⟩, -⟩ := linkInv_iff.1 hlink
  obtain ⟨laws, -⟩ := hup slave_up
  obtain ⟨-, -, -, -, tx_count, pending⟩ := (stateInv_idle idle).1 laws.state
  have run := execAll_handshake (exec_mSend master_up master_idle bytes) slave_up idle master_up rfl rfl
  have sampled : mrdyLine (sessionOpened (sendStarted bytes s.master) s) = true :=
    Bool.and_eq_true_iff.2 ⟨slave_up, announced⟩
  rw [masterReady_busy rfl sampled] at run
  exact ⟨_, run, rfl, rfl, rfl, rfl, rfl, announced, by simp [announced], tx_count, pending announced, rfl⟩

/-! ### The end of a session -/

/-- The state after `M.SETTLE` (R242). -/
def settled (s : State) : State :=
  returnMaster (settleResult s.master) (s.withMaster { s.master with cs := false, phase := .idle })

/-- A session whose handshake and bytes complete, and whose next clocking event finds nothing left, ends settled (R241, R249). -/
theorem execAll_session {opening : List Instr} {clock : Instr} {n : Nat} {s u v : State}
    (opens : execAll opening s = .next u) (clocks : execAll (List.replicate n clock) u = .next v)
    (last : exec clock v = .next (v.withMaster { v.master with phase := .settle })) (up : v.master.inited = true) :
    execAll (opening ++ List.replicate (n + 1) clock ++ [.mSettle]) s = .next (settled v) := by
  have settles : exec .mSettle (v.withMaster { v.master with phase := .settle }) = .next (settled v) :=
    whenEnabled_next.2 ⟨(inPhase_iff _).2 ⟨up, rfl⟩, rfl⟩
  rw [List.append_assoc, execAll_append opens, List.replicate_succ', List.append_assoc, execAll_append clocks,
    List.singleton_append, execAll_cons last, execAll_cons settles]
  rfl

/-! ### The bytes of a master-write session -/

/-- Reading one byte further than the offset just written gives the bytes before it, then that byte. -/
theorem Memory.readBlock_write_end {m : Memory} (h : m.wf) (n : Nat) (b : Byte) :
    Memory.readBlock (Memory.write m n b) 0 (n + 1) = Memory.readBlock m 0 n ++ [b] := by
  have before : ∀ k ∈ List.range n, Memory.read (Memory.write m n b) (0 + k) = Memory.read m (0 + k) := fun k hk => by
    have hlt : k < n := List.mem_range.1 hk
    rw [Memory.read_write h, if_neg (by omega)]
  rw [Memory.readBlock, List.range_succ, List.map_append, List.map_congr_left before]
  simp [Memory.readBlock, Memory.read_write h]

/-- A slave in an `RX` session that has received exactly these bytes, none of them wrapped (R196). -/
structure Received (bytes : List Byte) (x : Slave) : Prop where
  up : x.inited = true
  state : x.state = .rx
  wf : x.rxBuf.wf
  count : x.rxCount = BitVec.ofNat 32 bytes.length
  cursor : x.rxCursor.val = bytes.length
  held : Memory.readBlock x.rxBuf 0 bytes.length = bytes

/-- A byte received with room in the buffer is stored at the cursor, and sets no flag (R196). -/
theorem byteRx_slave_of_room {s : State} (room : s.slave.rxCursor.val < 128) (b : Byte) :
    (byteRx b s).slave = { s.slave with
      rxCount := s.slave.rxCount + 1, rxBuf := Memory.write s.slave.rxBuf s.slave.rxCursor.val b
      rxCursor := Fin.ofNat 129 (s.slave.rxCursor.val + 1), srdy := true } := by
  have not_full : s.slave.rxCursor.val ≠ Config.link.bufCap := room.ne
  have offset : storeOffset s.slave.rxCursor = s.slave.rxCursor.val := if_neg not_full
  simp only [byteRx, shiftDraw_slave, withSlave_slave, offset, if_neg not_full]

/-- A session with room takes one byte more. -/
theorem Received.snoc {bytes : List Byte} {s : State} (h : Received bytes s.slave) (room : bytes.length < 128) (b : Byte) :
    Received (bytes ++ [b]) (byteRx b s).slave := by
  rw [byteRx_slave_of_room (h.cursor.trans_lt room), h.cursor]
  have length_snoc : (bytes ++ [b]).length = bytes.length + 1 := List.length_append
  refine ⟨h.up, h.state, Memory.write_wf h.wf _ _, ?count, ?cursor, ?held⟩
  case count =>
    rw [length_snoc, BitVec.ofNat_add]
    exact congrArg (· + 1) h.count
  case cursor =>
    rw [length_snoc]
    exact Nat.mod_eq_of_lt (by omega)
  case held => rw [length_snoc, Memory.readBlock_write_end h.wf, h.held]

/-- What was received is what the completing poll will find held (R190). -/
theorem Received.heldBytes_eq {bytes : List Byte} {s : State} (h : Received bytes s.slave) (fits : bytes.length ≤ 128) :
    heldBytes s = bytes := by
  have count : s.slave.rxCount.toNat = bytes.length := by
    rw [h.count, BitVec.toNat_ofNat]
    omega
  rw [heldBytes, count, min_eq_left fits, h.held]

/-- The exchange of an initialised slave in `RX` is the receiving callback (R195). -/
theorem exchange_rx {s : State} (up : s.slave.inited = true) (rx : s.slave.state = .rx) (b : Byte) :
    exchange b s = byteRx b s := by
  rw [exchange, slaveUp, if_pos up, slaveByte, rx]

/-- `M.CLOCK` of `send` exchanges the byte at the index (R240). -/
theorem exec_mClockSend_byte {s : State} {b : Byte} (up : s.master.inited = true) (clock : s.master.phase = .clock)
    (op : s.master.op = .send) (more : s.master.idx < s.master.n) (byte : s.master.tx[s.master.idx]? = some b) :
    exec .mClockSend s = .next ((exchange b s).withMaster { s.master with idx := s.master.idx + 1 }) :=
  whenEnabled_next.2 ⟨(clocking_iff s).2 ⟨up, clock, op⟩, by rw [if_pos more, byte]⟩

/-- `M.CLOCK` of `send` with every byte clocked goes on to the settle step (R241). -/
theorem exec_mClockSend_last {s : State} (up : s.master.inited = true) (clock : s.master.phase = .clock)
    (op : s.master.op = .send) (last : ¬ s.master.idx < s.master.n) :
    exec .mClockSend s = .next (s.withMaster { s.master with phase := .settle }) :=
  whenEnabled_next.2 ⟨(clocking_iff s).2 ⟨up, clock, op⟩, if_neg last⟩

/-- Where a master-write session that began clocking in `s` stands after `k` bytes: the slave has received them with its
diagnostics, pending flag and mailbox unchanged, and the master has advanced its index alone (R161, R240). -/
structure WriteProgress (bytes : List Byte) (s : State) (k : Nat) (t : State) : Prop where
  received : Received (bytes.take k) t.slave
  master : t.master = { s.master with idx := k }
  diag : t.slave.diag = s.slave.diag
  pending : t.slave.txPending = s.slave.txPending
  mailbox : t.mailbox = s.mailbox

/-- One clocking event of a `send` carries the next byte to the slave (R161). -/
theorem WriteProgress.clock {bytes : List Byte} {s t : State} {k : Nat} (h : WriteProgress bytes s k t)
    (up : s.master.inited = true) (clock : s.master.phase = .clock) (op : s.master.op = .send)
    (tx : s.master.tx = bytes) (n : s.master.n = bytes.length) (fits : bytes.length ≤ 128) (more : k < bytes.length) :
    ∃ u, exec .mClockSend t = .next u ∧ WriteProgress bytes s (k + 1) u := by
  obtain ⟨received, master, diag, pending, mailbox⟩ := h
  have room : (bytes.take k).length < 128 := by
    rw [List.length_take]
    omega
  have byte : t.master.tx[t.master.idx]? = some bytes[k] := by
    rw [master]
    simp [tx, more]
  have sends := exec_mClockSend_byte (s := t) (by rw [master]; exact up) (by rw [master]; exact clock)
    (by rw [master]; exact op) (by rw [master]; exact n ▸ more) byte
  rw [exchange_rx received.up received.state] at sends
  have slave := byteRx_slave_of_room (received.cursor.trans_lt room) bytes[k]
  refine ⟨_, sends, ⟨?received, by simp [master], ?diag, ?pending, mailbox⟩⟩
  case received =>
    rw [← List.take_append_getElem more]
    exact received.snoc room _
  case diag => simp [slave, diag]
  case pending => simp [slave, pending]

/-- Settles O57: the tick opens an `RX` session, each clocking event carries one byte, and no byte finds the buffer full. -/
theorem masterWriteSessionCarriesTheBytes : Obligations.MasterWriteSessionCarriesTheBytes := by
  intro bytes s hlink slave_up master_up idle clear master_idle fits
  obtain ⟨⟨-, hup⟩, -⟩ := linkInv_iff.1 hlink
  obtain ⟨laws, -⟩ := hup slave_up
  obtain ⟨-, -, count, cursor, -⟩ := (stateInv_idle idle).1 laws.state
  have opens := execAll_handshake (exec_mSend master_up master_idle bytes) slave_up idle master_up rfl rfl
  have sampled : mrdyLine (sessionOpened (sendStarted bytes s.master) s) = false :=
    Bool.and_eq_false_iff.2 (.inr clear)
  rw [masterReady_send rfl sampled] at opens
  set u := (sessionOpened (sendStarted bytes s.master) s).withMaster { sendStarted bytes s.master with phase := .clock }
    with hu
  have fresh : Received [] u.slave :=
    ⟨slave_up, by simp [hu, clear], laws.rx.1, count, congrArg Fin.val cursor, rfl⟩
  have start : WriteProgress bytes u 0 u := ⟨fresh, rfl, rfl, rfl, rfl⟩
  obtain ⟨v, clocks, received, master, diag, pending, mailbox⟩ := execAll_replicate
    (fun k t more h => h.clock master_up rfl rfl rfl rfl fits more) start
  rw [List.take_length] at received
  have up : v.master.inited = true := by rw [master]; exact master_up
  have last := exec_mClockSend_last up (by rw [master]; rfl) (by rw [master]; rfl)
    (by rw [master]; exact lt_irrefl _)
  refine ⟨_, execAll_session opens clocks last up, ?result, rfl, rfl, received.state,
    received.heldBytes_eq fits, diag, pending, mailbox⟩
  simp [settled, settleResult, master, hu, sendStarted]

/-! ### The bytes of a master-read session -/

/-- LENGTH, at offset 1 of a pending message, counts what follows it (R29, R131). -/
theorem pendingIsFrame_lengthByte {x : Slave} (h : pendingIsFrame x) :
    2 + (Memory.read x.txBuf 1).toNat = x.txLen.val := by
  obtain ⟨hshort, -⟩ := pendingIsFrame_length h
  obtain ⟨c, p, hframe⟩ := h
  rw [encodeFrame_eq] at hframe
  split at hframe
  case isFalse => cases hframe
  case isTrue hp =>
    have hblock := Option.some.inj hframe
    have hlength := congrArg List.length hblock
    simp only [List.length_cons, Memory.length_readBlock] at hlength
    have hbyte : Memory.read x.txBuf 1 = BitVec.ofNat 8 (1 + p.length) := by
      rw [← Memory.getD_readBlock x.txBuf 0 x.txLen.val 1 (by omega) 0, ← hblock]
      rfl
    rw [hbyte, BitVec.toNat_ofNat]
    omega

/-- The exchange of a slave in `TX` with bytes of its message left shifts out the next one (R197). -/
theorem exchange_tx {s : State} (up : s.slave.inited = true) (tx : s.slave.state = .tx)
    (more : s.slave.txCount.toNat < s.slave.txLen.val) (b : Byte) :
    exchange b s = shiftOut (Memory.read s.slave.txBuf s.slave.txCount.toNat)
      (s.withSlave { s.slave with txCount := s.slave.txCount + 1, srdy := true }) := by
  rw [exchange, slaveUp, if_pos up, slaveByte, tx]
  exact if_pos more

/-- `M.CLOCK` of `receive` captures what the slave shifts out (R248). -/
theorem exec_mClockRecv_byte {s : State} (up : s.master.inited = true) (clock : s.master.phase = .clock)
    (op : s.master.op = .recv) (more : s.master.idx < min s.master.expected s.master.cap) :
    exec .mClockRecv s = .next ((exchange Config.link.masterDummy s).withMaster
      (captureByte (exchange Config.link.masterDummy s).env.slaveOut s.master)) :=
  whenEnabled_next.2 ⟨(clocking_iff s).2 ⟨up, clock, op⟩, if_pos more⟩

/-- `M.CLOCK` of `receive` with every expected byte captured goes on to the settle step (R249). -/
theorem exec_mClockRecv_last {s : State} (up : s.master.inited = true) (clock : s.master.phase = .clock)
    (op : s.master.op = .recv) (last : ¬ s.master.idx < min s.master.expected s.master.cap) :
    exec .mClockRecv s = .next (s.withMaster { s.master with phase := .settle }) :=
  whenEnabled_next.2 ⟨(clocking_iff s).2 ⟨up, clock, op⟩, if_neg last⟩

/-- A `receive` that is clocking, with the first `k` bytes of the message in `buf` captured (R248). -/
structure Captured (buf : Memory) (cap k : Nat) (m : Master) : Prop where
  up : m.inited = true
  clock : m.phase = .clock
  op : m.op = .recv
  cap : m.cap = cap
  idx : m.idx = k
  expected : m.expected = expectedAt m
  wf : m.rx.wf
  bytes : ∀ j, j < k → Memory.read m.rx j = Memory.read buf j

/-- A `receive` that captures the next byte of the message has one byte more of it. -/
theorem Captured.snoc {buf : Memory} {cap k : Nat} {m : Master} (h : Captured buf cap k m) :
    Captured buf cap (k + 1) (captureByte (Memory.read buf k) m) := by
  refine ⟨h.up, h.clock, h.op, h.cap, congrArg (· + 1) h.idx, expectedAt_captureByte h.wf h.expected,
    Memory.write_wf h.wf _ _, fun j hj => ?_⟩
  have hread := Memory.read_write h.wf m.idx (Memory.read buf k) j
  refine hread.trans ?_
  rw [h.idx]
  split_ifs with heq
  · rw [heq]
  · exact h.bytes j (by omega)

/-- Once LENGTH is in, the expected count is the length of the message; before, it is 2 (R245, R248). -/
theorem Captured.expected_eq {x : Slave} {cap k : Nat} {m : Master} (h : Captured x.txBuf cap k m)
    (frame : pendingIsFrame x) : m.expected = if k ≤ 1 then 2 else x.txLen.val := by
  rw [h.expected, expectedAt, h.idx]
  split_ifs with before
  · rfl
  · rw [h.bytes 1 (by omega), pendingIsFrame_lengthByte frame]

/-- Where a master-read session of the message pending in `x` stands after `k` bytes. -/
structure ReadProgress (x : Slave) (cap k : Nat) (t : State) : Prop where
  slave : t.slave = { x with txCount := BitVec.ofNat 32 k, srdy := true }
  captured : Captured x.txBuf cap k t.master

/-- One clocking event of a `receive` brings the next byte of the message (R162). -/
theorem ReadProgress.clock {x : Slave} {cap k : Nat} {t : State} (h : ReadProgress x cap k t)
    (up : x.inited = true) (tx : x.state = .tx) (frame : pendingIsFrame x) (fits : x.txLen.val ≤ cap)
    (more : k < x.txLen.val) : ∃ u, exec .mClockRecv t = .next u ∧ ReadProgress x cap (k + 1) u := by
  obtain ⟨slave, captured⟩ := h
  obtain ⟨hshort, hlong⟩ := pendingIsFrame_length frame
  have below : t.master.idx < min t.master.expected t.master.cap := by
    rw [captured.idx, captured.cap, captured.expected_eq frame]
    split_ifs <;> omega
  have count : t.slave.txCount.toNat = k := by
    rw [slave, BitVec.toNat_ofNat]
    omega
  have shifts := exchange_tx (s := t) (by rw [slave]; exact up) (by rw [slave]; exact tx)
    (by rw [count, slave]; exact more) Config.link.masterDummy
  have captures := exec_mClockRecv_byte captured.up captured.clock captured.op below
  rw [shifts, count, slave] at captures
  refine ⟨_, captures, ?_, captured.snoc⟩
  simp only [withMaster_slave, shiftOut_slave, withSlave_slave, BitVec.ofNat_add]
  rfl

/-- Settles O58: the tick opens a `TX` session, each clocking event captures the next byte of the message, and LENGTH, the second
of them, tells the master how many there are. -/
theorem masterReadSessionReturnsTheMessage : Obligations.MasterReadSessionReturnsTheMessage := by
  intro cap s hlink slave_up master_up idle announced master_idle fits
  obtain ⟨⟨-, hup⟩, rx_wf, -⟩ := linkInv_iff.1 hlink
  obtain ⟨laws, -⟩ := hup slave_up
  obtain ⟨-, -, -, -, count, pending⟩ := (stateInv_idle idle).1 laws.state
  have opens := execAll_handshake (exec_mRecv master_up master_idle cap) slave_up idle master_up rfl rfl
  rw [masterReady_recv rfl] at opens
  set u := (sessionOpened (recvStarted cap s.master) s).withMaster { recvStarted cap s.master with phase := .clock }
    with hu
  have tx : u.slave.state = .tx := by simp [hu, announced]
  have frame : pendingIsFrame u.slave := laws.pending (pending announced)
  obtain ⟨hshort, -⟩ := pendingIsFrame_length frame
  have start : ReadProgress u.slave cap 0 u := by
    refine ⟨?_, master_up, rfl, rfl, rfl, rfl, rfl, rx_wf, nofun⟩
    simp [hu, count]
  obtain ⟨v, clocks, slave, captured⟩ := execAll_replicate (n := s.slave.txLen.val)
    (fun k t more h => h.clock slave_up tx frame fits more) start
  have expected : v.master.expected = s.slave.txLen.val :=
    (captured.expected_eq frame).trans (if_neg (not_le.2 (show 1 < u.slave.txLen.val by omega)))
  have last := exec_mClockRecv_last captured.up captured.clock captured.op
    (by rw [captured.idx, captured.cap, expected, min_eq_left fits]; exact lt_irrefl _)
  refine ⟨_, execAll_session opens clocks last captured.up, ?result, rfl, rfl, captured.bytes, ?state, ?diag⟩
  case result => simp [settled, settleResult, captured.op, captured.idx]
  case state => exact (congrArg Slave.state slave).trans tx
  case diag => exact (congrArg Slave.diag slave).trans rfl

end Sys2Proof.Machine

/-! PROOFS. The slave link state machine (R180 to R217): each row of it where it is enabled, the frame that the completing poll
hands to the dispatcher (R190, R271), the received bytes of a session wrapping in the buffer (R196, R217), a session that
chip-select holds open until it times out (R215, R216), and the movements of MRDY (R186, R193, R194). -/

namespace Sys2Proof.Machine

/-! ### The rows of the state machine, where they are enabled -/

/-- The row of the poll in `IDLE` is that poll (R185 to R187). -/
theorem exec_sPollIdle {s : State} (up : s.slave.inited = true) (idle : s.slave.state = .idle) :
    exec .sPollIdle s = .next (pollIdle s) :=
  whenEnabled_next.2 ⟨(slaveIn_iff s).2 ⟨up, idle⟩, rfl⟩

/-- The row of the poll in `RX` is that poll (R188). -/
theorem exec_sPollRx {s : State} (up : s.slave.inited = true) (rx : s.slave.state = .rx) :
    exec .sPollRx s = .next (pollRx s) :=
  whenEnabled_next.2 ⟨(slaveIn_iff s).2 ⟨up, rx⟩, rfl⟩

/-- The row of the poll in `TX` is that poll (R193, R194). -/
theorem exec_sPollTx {s : State} (up : s.slave.inited = true) (tx : s.slave.state = .tx) :
    exec .sPollTx s = .next (pollTx s) :=
  whenEnabled_next.2 ⟨(slaveIn_iff s).2 ⟨up, tx⟩, rfl⟩

/-- The row of the poll in `ERROR` changes nothing (R199). -/
theorem exec_sPollError {s : State} (up : s.slave.inited = true) (error : s.slave.state = .error) :
    exec .sPollError s = .next s :=
  whenEnabled_next.2 ⟨(slaveIn_iff s).2 ⟨up, error⟩, rfl⟩

/-- The row of the callback in `RX` is that callback (R196). -/
theorem exec_sByteRx {s : State} (up : s.slave.inited = true) (rx : s.slave.state = .rx) (b : Byte) :
    exec (.sByteRx b) s = .next (byteRx b s) :=
  whenEnabled_next.2 ⟨(slaveIn_iff s).2 ⟨up, rx⟩, rfl⟩

/-- The row of the callback in `TX` is that callback (R197). -/
theorem exec_sByteTx {s : State} (up : s.slave.inited = true) (tx : s.slave.state = .tx) (b : Byte) :
    exec (.sByteTx b) s = .next (byteTx b s) :=
  whenEnabled_next.2 ⟨(slaveIn_iff s).2 ⟨up, tx⟩, rfl⟩

/-- `S.QUEUE` of an initialised slave returns the result of its body (R205). -/
theorem exec_sQueue {s : State} (up : s.slave.inited = true) (c : Byte) (p : List Byte) :
    exec (.sQueue c p) s = .next (returnApp (queueMessage c p s).1 (queueMessage c p s).2) :=
  whenEnabled_next.2 ⟨up, rfl⟩

/-- `S.CLRDIAG` of an initialised slave clears the masked flags (R210). -/
theorem exec_sClrdiag {s : State} (up : s.slave.inited = true) (mask : BitVec 5) :
    exec (.sClrdiag mask) s = .next (s.withSlave { s.slave with diag := clearDiag s.slave.diag mask }) :=
  whenEnabled_next.2 ⟨up, rfl⟩

/-! ### Initialisation, the tick and the polls -/

/-- Settles O18: `S.INIT` asks nothing of the state it finds, and what it writes is the record of R180. -/
theorem slaveInitSetsResetValues : Obligations.SlaveInitSetsResetValues := fun _ _ => rfl

/-- Settles O20: the tick is `poll` of the advanced state, and in each link state `poll` is that state's row. -/
theorem tickAdvancesThenPolls : Obligations.TickAdvancesThenPolls := by
  intro s up
  refine ⟨⟨_, execSTick_eq up⟩, (execSTick_eq up).trans ?_⟩
  have up' : (ticked s).slave.inited = true := up
  rw [poll, ticked_state]
  cases hstate : s.slave.state with
  | idle => exact (exec_sPollIdle up' hstate).symm
  | rx => exact (exec_sPollRx up' hstate).symm
  | tx => exact (exec_sPollTx up' hstate).symm
  | error => exact (exec_sPollError up' hstate).symm

/-- Settles O21: the three outcomes of the poll in `IDLE`, each under its own condition. -/
theorem idlePollOpensOrAnnounces : Obligations.IdlePollOpensOrAnnounces := by
  intro s up idle
  rw [exec_sPollIdle up idle]
  rcases pollIdle_cases s with ⟨selected, hp⟩ | ⟨released, pending, clear, hp⟩ | ⟨released, nothing_new, hp⟩ <;> rw [hp]
  · rw [if_pos selected]
    rfl
  · rw [if_neg (by simp [released]), if_pos ⟨pending, clear⟩]
    rfl
  · have not_pending : ¬ (s.slave.txPending = true ∧ s.slave.mrdy = false) := by
      rintro ⟨pending, clear⟩
      simp [pending, clear] at nothing_new
    rw [if_neg (by simp [released]), if_neg not_pending]

/-- Settles O23: with chip-select asserted the poll in `RX` does not complete, so only the elapsed time decides. -/
theorem rxPollWithChipSelectAsserted : Obligations.RxPollWithChipSelectAsserted := by
  intro s up rx selected
  rw [exec_sPollRx up rx]
  rcases pollRx_cases s with ⟨released, -⟩ | ⟨-, late, hp⟩ | ⟨-, early, hp⟩
  · cases released.symm.trans selected
  · rw [hp, if_pos late]
    rfl
  · rw [hp, if_neg (not_le.2 early)]

/-- Settles O24: completion and timeout end the session alike, but for the flag. -/
theorem txPollOutcomes : Obligations.TxPollOutcomes := by
  intro s up tx ended
  rw [exec_sPollTx up tx]
  rcases pollTx_cases s with ⟨released, hp⟩ | ⟨selected, late, hp⟩ | ⟨selected, early, hp⟩ <;> rw [hp]
  · rw [if_pos released]
    rfl
  · rw [if_neg (by simp [selected]), if_pos late]
    rfl
  · rw [if_neg (by simp [selected]), if_neg (not_le.2 early)]

/-- Settles O25: the poll in `ERROR` and the callback outside a session have one outcome each. -/
theorem nothingHappensOutsideSessions : Obligations.NothingHappensOutsideSessions :=
  fun b _ up => ⟨exec_sPollError up, fun outside => exec_sByteOther up outside b⟩

/-! ### The callback in a session -/

/-- What a byte received in `RX` writes of the slave (R196). -/
theorem byteRx_slave (b : Byte) (s : State) : (byteRx b s).slave = { s.slave with
    rxCount := s.slave.rxCount + 1
    diag := if s.slave.rxCursor.val = 128 then s.slave.diag ||| 0x01 else s.slave.diag
    rxBuf := Memory.write s.slave.rxBuf (storeOffset s.slave.rxCursor) b
    rxCursor := Fin.ofNat 129 (storeOffset s.slave.rxCursor + 1), srdy := true } := rfl

/-- Settles O26: the callback writes one cell of a canonical buffer and puts the cursor one past it. -/
theorem receivedByteIsStored : Obligations.ReceivedByteIsStored := fun b s up rx wf =>
  ⟨_, _, exec_sByteRx up rx b, rfl, cursor_after s.slave.rxCursor, Memory.read_write wf _ b⟩

/-- Settles O27: the counter decides whether the byte that goes out is the message's or a draw. -/
theorem transmittedByteIsThePendingFrames : Obligations.TransmittedByteIsThePendingFrames := by
  intro b s up tx
  rw [exec_sByteTx up tx, byteTx]
  split_ifs <;> rfl

/-! ### Queueing and clearing -/

/-- Settles O29: the outcomes of `S.QUEUE` in the order of its tests; the message it takes is written from offset 0 on. -/
theorem queueOperationOutcomes : Obligations.QueueOperationOutcomes := by
  intro c p s up wf
  have written := Memory.read_writeBlock wf 0 (0x5A :: BitVec.ofNat 8 (1 + p.length) :: c :: p)
  refine ⟨_, Fin.ofNat 129 (p.length + 3), fun short => ⟨?length, fun a => (written a).trans ?bytes⟩, ?outcome⟩
  case length =>
    simp only [Fin.ofNat]
    omega
  case bytes =>
    have inside : 0 ≤ a ∧ a < 0 + (0x5A :: BitVec.ofNat 8 (1 + p.length) :: c :: p).length ↔ a < 3 + p.length := by
      simp only [List.length_cons]
      omega
    simp only [inside]
    rfl
  case outcome =>
    rw [exec_sQueue up]
    rcases queueMessage_cases s c p with ⟨error, hq⟩ | ⟨working, long, hq⟩ | ⟨working, short, pending, hq⟩ |
      ⟨working, short, free, hq⟩ <;> rw [hq]
    · rw [if_pos error]
      rfl
    · rw [if_neg working, if_pos long]
      rfl
    · rw [if_neg working, if_neg (not_lt.2 short), if_pos pending]
      rfl
    · rw [if_neg working, if_neg (not_lt.2 short), if_neg (by simp [free])]
      rfl

/-- A flag is left where the mask does not reach it; the mask has no bits beyond the five flags (R210). -/
theorem getLsbD_clearDiag (d : BitVec 8) (mask : BitVec 5) (k : Nat) :
    (clearDiag d mask).getLsbD k = (d.getLsbD k && !mask.getLsbD k) := by
  rw [clearDiag, zext, BitVec.getLsbD_and, BitVec.getLsbD_not, BitVec.getLsbD_setWidth]
  by_cases hk : k < 8
  · simp [hk]
  · simp [BitVec.getLsbD_of_ge d k (not_lt.1 hk)]

/-- Settles O30: bit by bit. -/
theorem clearDiagClearsMaskedFlags : Obligations.ClearDiagClearsMaskedFlags := fun mask s up =>
  ⟨_, exec_sClrdiag up mask, getLsbD_clearDiag s.slave.diag mask⟩

/-! ### The completing poll and the dispatcher -/

/-- A frame out of a 128-byte buffer is an operand that `D.DISPATCH` takes: it is well formed and fits the mailbox (R270). -/
theorem exec_dDispatch_validated {s : State} {bytes : List Byte} {f : Frame} (up : s.slave.inited = true)
    (fits : bytes.length ≤ 128) (h : validateFrame bytes = .ok f) :
    exec (.dDispatch f) s = .next (dispatchFrame f s) := by
  obtain ⟨wf, short⟩ := validateFrame_wellFormed h
  have in_mailbox : ¬ (0x80 ≤ f.command ∧ 126 < f.length) := fun ⟨_, long⟩ => by omega
  rw [exec_dDispatch up, if_neg (by simp [wf]), if_neg in_mailbox]

/-- The delivery of bytes that are a frame is its dispatch (R190). -/
theorem deliverBytes_ok {bytes : List Byte} {f : Frame} (h : validateFrame bytes = .ok f) (s : State) :
    deliverBytes bytes s = dispatchFrame f s := by
  rw [deliverBytes, h]

/-- The delivery of bytes that are no frame sets `FORMAT_ERROR` (R191). -/
theorem deliverBytes_error {bytes : List Byte} {e : FormatError} (h : validateFrame bytes = .error e) (s : State) :
    deliverBytes bytes s = { s with slave := { s.slave with diag := s.slave.diag ||| 0x08 } } := by
  rw [deliverBytes, h]
  cases e <;> rfl

/-- Settles O15: the row delivers its bytes, whose delivery is the dispatch of the frame they hold. -/
theorem frameRowsAreDispatches : Obligations.FrameRowsAreDispatches := by
  intro i bytes f s up h fits valid
  rw [exec_of_encode up h, List.take_of_length_le fits, deliverBytes_ok valid, exec_dDispatch_validated up fits valid]

/-- The bytes held of a session, cell by cell from offset 0 (R190). -/
theorem heldBytes_eq_map (s : State) :
    heldBytes s = (List.range (min s.slave.rxCount.toNat 128)).map (Memory.read s.slave.rxBuf) := by
  simp [heldBytes, Memory.readBlock]

/-- Settles O22: the poll delivers the held bytes and closes the session, whatever the delivery comes to. -/
theorem rxPollCompletesSession : Obligations.RxPollCompletesSession := by
  intro s up rx released held ended
  have held_eq : heldBytes s = held := heldBytes_eq_map s
  have fits : held.length ≤ 128 := held_eq ▸ length_heldBytes s
  have completes : exec .sPollRx s = .next (closeRx (deliverBytes held s)) := by
    rw [exec_sPollRx up rx, pollRx, if_pos released, held_eq]
  cases valid : validateFrame held with
  | ok f =>
    rw [deliverBytes_ok valid] at completes
    exact ⟨_, exec_dDispatch_validated up fits valid, completes⟩
  | error e =>
    rw [deliverBytes_error valid] at completes
    exact completes

/-! ### The received bytes wrap in the buffer -/

/-- The cursor after `n` bytes of a session: one past the offset of the latest, and 0 before the first (R196). -/
def cursorAfter (n : Nat) : Nat := if n = 0 then 0 else (n - 1) % 128 + 1

/-- The byte after `n` others goes to offset `n mod 128` (R196, R217). -/
theorem storeOffset_of_cursorAfter {c : Fin 129} {n : Nat} (h : c.val = cursorAfter n) : storeOffset c = n % 128 := by
  have hoffset : storeOffset c = if c.val = 128 then 0 else c.val := rfl
  rw [cursorAfter] at h
  rw [hoffset]
  split at h <;> split <;> omega

/-- The cursor stands at the end of the buffer exactly when the buffer has been filled whole, once or more often. -/
theorem cursorAfter_eq_end {n : Nat} : cursorAfter n = 128 ↔ n ≠ 0 ∧ n % 128 = 0 := by
  rw [cursorAfter]
  split <;> omega

/-- Where an `RX` session that was fresh in `s` stands once it has received `bytes` (R217): the latest 128 are in the buffer,
each at its offset modulo 128, and beside the buffer and its bookkeeping only `RX_OVERFLOW` may have been written. -/
structure Wrapped (bytes : List Byte) (s t : State) : Prop where
  up : t.slave.inited = true
  state : t.slave.state = .rx
  wf : t.slave.rxBuf.wf
  within : Memory.within 128 t.slave.rxBuf
  cursor : t.slave.rxCursor.val = cursorAfter bytes.length
  latest : ∀ k, k < bytes.length → bytes.length ≤ k + 128 → Memory.read t.slave.rxBuf (k % 128) = bytes.getD k 0
  untouched : ∀ a, bytes.length ≤ a → Memory.read t.slave.rxBuf a = Memory.read s.slave.rxBuf a
  diag : t.slave.diag = if 128 < bytes.length then s.slave.diag ||| 0x01 else s.slave.diag
  txBuf : t.slave.txBuf = s.slave.txBuf
  mailbox : t.mailbox = s.mailbox
  master : t.master = s.master

/-- `RX_OVERFLOW` is set by byte 129, and by every 128th after it, which changes nothing more (R196, R303). -/
theorem overflow_diag (d : BitVec 8) (n : Nat) :
    (if cursorAfter n = 128 then (if 128 < n then d ||| 0x01 else d) ||| 0x01 else if 128 < n then d ||| 0x01 else d) =
      if 128 < n + 1 then d ||| 0x01 else d := by
  rw [if_congr cursorAfter_eq_end rfl rfl]
  rcases Nat.lt_trichotomy n 128 with below | rfl | above
  · rw [if_neg (by omega), if_neg (by omega), if_neg (by omega)]
  · rfl
  · rw [if_pos above, if_pos (show 128 < n + 1 by omega), BitVec.or_assoc, BitVec.or_self, ite_self]

/-- A session takes one byte more, which replaces the byte 128 before it, if there is one. -/
theorem Wrapped.snoc {bytes : List Byte} {s t : State} (h : Wrapped bytes s t) (b : Byte) :
    Wrapped (bytes ++ [b]) s (byteRx b t) := by
  have offset := storeOffset_of_cursorAfter h.cursor
  have length_snoc : (bytes ++ [b]).length = bytes.length + 1 := List.length_append
  have stored (a : Nat) : Memory.read (byteRx b t).slave.rxBuf a =
      if a = bytes.length % 128 then b else Memory.read t.slave.rxBuf a := by
    rw [byteRx_slave, Memory.read_write h.wf, offset]
  refine ⟨h.up, h.state, Memory.write_wf h.wf _ _, Memory.write_within h.within (storeOffset_lt _) _, ?cursor,
    fun k more recent => ?latest, fun a beyond => ?untouched, ?diag, h.txBuf, h.mailbox, h.master⟩
  case cursor =>
    rw [length_snoc, byteRx_slave, cursor_after, offset]
    rfl
  case latest =>
    rw [length_snoc] at more recent
    rw [stored]
    rcases Nat.lt_succ_iff_lt_or_eq.1 more with earlier | rfl
    · rw [if_neg (by omega), h.latest k earlier (by omega), List.getD_append _ _ _ _ earlier]
    · simp
  case untouched =>
    rw [length_snoc] at beyond
    have below : bytes.length % 128 ≤ bytes.length := Nat.mod_le _ _
    rw [stored, if_neg (by omega), h.untouched a (by omega)]
  case diag =>
    rw [byteRx_slave, length_snoc, ← overflow_diag, ← h.cursor, ← h.diag]

/-- Every byte of a fresh session is received, so the session stands where `Wrapped` says after any number of them. -/
theorem execAll_sByteRx {s : State} (fresh : Wrapped [] s s) (bytes : List Byte) :
    ∃ t, execAll (bytes.map .sByteRx) s = .next t ∧ Wrapped bytes s t := by
  induction bytes using List.reverseRecOn with
  | nil => exact ⟨s, rfl, fresh⟩
  | append_singleton bytes b ih =>
    obtain ⟨t, run, progress⟩ := ih
    refine ⟨byteRx b t, ?_, progress.snoc b⟩
    rw [List.map_append, execAll_append run, List.map_singleton, execAll_cons (exec_sByteRx progress.up progress.state b)]
    rfl

/-- Settles O55: the session is fresh at the start, and every byte keeps the account of what is held. -/
theorem receivedBytesWrapInTheBuffer : Obligations.ReceivedBytesWrapInTheBuffer := by
  intro bytes s up rx _ cursor wf within
  have fresh : Wrapped [] s s := ⟨up, rx, wf, within, congrArg Fin.val cursor, nofun, fun _ _ => rfl, rfl, rfl, rfl, rfl⟩
  obtain ⟨t, run, h⟩ := execAll_sByteRx fresh bytes
  exact ⟨t, run, h.latest, h.untouched, h.within, h.diag, h.state, h.txBuf, h.mailbox, h.master⟩

/-! ### Chip-select held asserted -/

/-- A repeated operation that completes once more. -/
theorem execAll_replicate_succ {i : Instr} {n : Nat} {s t u : State} (run : execAll (List.replicate n i) s = .next t)
    (next : exec i t = .next u) : execAll (List.replicate (n + 1) i) s = .next u := by
  rw [List.replicate_succ', execAll_append run, execAll_cons next]
  rfl

/-- A session that chip-select holds open: its direction is the one MRDY gives (R154, R185). -/
structure HeldOpen (s : State) : Prop where
  up : s.slave.inited = true
  selected : csLine s = true
  state : s.slave.state = if s.slave.mrdy then .tx else .rx

/-- A poll of a session held open finds it below its bound and waits, or times it out (R189, R192, R194). -/
theorem HeldOpen.poll_cases {s : State} (h : HeldOpen s) :
    (1000 ≤ (s.slave.now - s.slave.tStart).toNat ∧
      poll s = if s.slave.mrdy then closeTx (raiseError .txTimeout s) else closeRx (raiseError .rxTimeout s)) ∨
    ((s.slave.now - s.slave.tStart).toNat < 1000 ∧ poll s = s) := by
  have state := h.state
  cases hmrdy : s.slave.mrdy with
  | true =>
    rw [hmrdy, if_pos rfl] at state
    rw [poll, state]
    rcases pollTx_cases s with ⟨released, -⟩ | ⟨-, late⟩ | ⟨-, early⟩
    · cases released.symm.trans h.selected
    · exact .inl late
    · exact .inr early
  | false =>
    rw [hmrdy, if_neg Bool.false_ne_true] at state
    rw [poll, state]
    rcases pollRx_cases s with ⟨released, -⟩ | ⟨-, late⟩ | ⟨-, early⟩
    · cases released.symm.trans h.selected
    · exact .inl late
    · exact .inr early

/-- A slave whose session has timed out: idle with every line down, and the flag of the session's direction set (R192, R194). -/
structure TimedOut (s t : State) : Prop where
  up : t.slave.inited = true
  state : t.slave.state = .idle
  srdy : t.slave.srdy = false
  mrdy : t.slave.mrdy = false
  csAck : t.slave.csAck = false
  diag : t.slave.diag = s.slave.diag ||| if s.slave.mrdy = true then 0x04 else 0x02

/-- A session held open times out at its bound (R192, R194). -/
theorem HeldOpen.poll_late {s : State} (h : HeldOpen s) (late : 1000 ≤ (s.slave.now - s.slave.tStart).toNat) :
    TimedOut s (poll s) := by
  obtain ⟨-, times_out⟩ | ⟨early, -⟩ := h.poll_cases
  case inr => omega
  rw [times_out]
  cases hmrdy : s.slave.mrdy with
  | true => exact ⟨h.up, rfl, rfl, rfl, rfl, by rw [hmrdy]; rfl⟩
  | false => exact ⟨h.up, rfl, rfl, hmrdy, rfl, by rw [hmrdy]; rfl⟩

/-- The state once `k` milliseconds have passed on the slave's counter and nothing else has happened. -/
def waited (k : Nat) (s : State) : State := s.withSlave { s.slave with now := s.slave.now + BitVec.ofNat 32 k }

/-- No time has passed. -/
theorem waited_zero (s : State) : waited 0 s = s := by
  rw [waited, BitVec.add_zero]
  rfl

/-- One tick more advances the counter by one. -/
theorem ticked_waited (k : Nat) (s : State) : ticked (waited k s) = waited (k + 1) s := by
  simp only [ticked, waited, withSlave_slave, BitVec.ofNat_add, BitVec.add_assoc]
  rfl

/-- The time elapsed since a session was opened (R287). -/
theorem elapsed_waited {s : State} (start : s.slave.tStart = s.slave.now) {k : Nat} (hk : k < 2 ^ 32) :
    ((waited k s).slave.now - (waited k s).slave.tStart).toNat = k := by
  have elapsed : (waited k s).slave.now - (waited k s).slave.tStart = BitVec.ofNat 32 k := by
    simp [waited, start]
  rw [elapsed, BitVec.toNat_ofNat, Nat.mod_eq_of_lt hk]

/-- A session held open is held open however long it waits. -/
theorem HeldOpen.after_waiting {s : State} (h : HeldOpen s) (k : Nat) : HeldOpen (waited k s) := ⟨h.up, h.selected, h.state⟩

/-- The tick of an idle slave with chip-select asserted opens a session that is held open (R185). -/
theorem heldOpen_openSession {s : State} (up : s.slave.inited = true) (selected : csLine s = true) :
    HeldOpen (openSession (ticked s)) := ⟨up, selected, rfl⟩

/-- Up to the bound the ticks of a session held open only advance the counter (R189, R194). -/
theorem execAll_sTick_early {s : State} (h : HeldOpen s) (start : s.slave.tStart = s.slave.now) {n : Nat} (hn : n < 1000) :
    execAll (List.replicate n .sTick) s = .next (waited n s) := by
  have ticks (k : Nat) (t : State) (hk : k < n) (ht : t = waited k s) :
      ∃ u, exec .sTick t = .next u ∧ u = waited (k + 1) s := by
    refine ⟨_, ?_, rfl⟩
    rw [ht, execSTick_eq (h.after_waiting k).up, ticked_waited]
    rcases (h.after_waiting (k + 1)).poll_cases with ⟨late, -⟩ | ⟨-, waits⟩
    · rw [elapsed_waited start (by omega)] at late
      omega
    · rw [waits]
  obtain ⟨t, run, rfl⟩ := execAll_replicate (P := fun k t => t = waited k s) ticks (waited_zero s).symm
  exact run

/-- Settles O56: the first tick opens a session, 999 more find it below the bound, the next is at the bound and closes it, and
with chip-select still asserted the one after opens another, which MRDY, now deasserted, makes one of `RX`. -/
theorem stuckChipSelectRecovers : Obligations.StuckChipSelectRecovers := by
  intro s up idle selected
  set u := openSession (ticked s)
  have held : HeldOpen u := heldOpen_openSession up selected
  have opens : exec .sTick s = .next u := exec_sTick_opens up idle selected
  have waits (n : Nat) (hn : n < 1000) : execAll (List.replicate (n + 1) .sTick) s = .next (waited n u) := by
    rw [List.replicate_succ, execAll_cons opens, execAll_sTick_early held rfl hn]
  have closes : exec .sTick (waited 999 u) = .next (poll (waited 1000 u)) := by
    rw [execSTick_eq (held.after_waiting 999).up, ticked_waited]
  have closed : TimedOut (waited 1000 u) (poll (waited 1000 u)) :=
    (held.after_waiting 1000).poll_late (by rw [elapsed_waited rfl (by omega)])
  have still_selected : csLine (poll (waited 1000 u)) = true := by
    rw [csLine, poll_master]
    exact selected
  have closes_at := execAll_replicate_succ (waits 999 (by omega)) closes
  have reopens_at := execAll_replicate_succ closes_at (exec_sTick_opens closed.up closed.state still_selected)
  refine ⟨fun k positive bound => ?_, ?_, ?_⟩
  · obtain ⟨n, rfl⟩ := Nat.exists_eq_add_of_le' positive
    exact ⟨_, waits n (by omega), rfl, rfl⟩
  · exact ⟨_, closes_at, closed.state, closed.srdy, closed.mrdy, closed.csAck, closed.diag⟩
  · have unannounced : (ticked (poll (waited 1000 u))).slave.mrdy = false := closed.mrdy
    exact ⟨_, reopens_at, by simp [unannounced], rfl⟩

/-! ### The movements of MRDY -/

/-- What a poll can do to MRDY: nothing, announce a pending message, or end its announcement with the `TX` session. -/
theorem poll_mrdy_cases (s : State) :
    (poll s).slave.mrdy = s.slave.mrdy ∨
    ((poll s).slave.mrdy = true ∧ s.slave.state = .idle ∧ csLine s = false ∧ s.slave.txPending = true) ∨
    ((poll s).slave.mrdy = false ∧ s.slave.state = .tx ∧ (poll s).slave.state = .idle) := by
  unfold poll
  split
  case h_1 idle =>
    rcases pollIdle_cases s with ⟨-, h⟩ | ⟨released, pending, -, h⟩ | ⟨-, -, h⟩ <;> rw [h]
    · exact .inl rfl
    · exact .inr (.inl ⟨rfl, idle, released, pending⟩)
    · exact .inl rfl
  case h_2 =>
    obtain ⟨_, _, _, _, delivered⟩ := deliverBytes_slave s (heldBytes s)
    rcases pollRx_cases s with ⟨-, h⟩ | ⟨-, -, h⟩ | ⟨-, -, h⟩ <;> rw [h]
    · exact .inl (by rw [closeRx_slave, delivered])
    · exact .inl rfl
    · exact .inl rfl
  case h_3 tx =>
    rcases pollTx_cases s with ⟨-, h⟩ | ⟨-, -, h⟩ | ⟨-, -, h⟩ <;> rw [h]
    · exact .inr (.inr ⟨rfl, tx, rfl⟩)
    · exact .inr (.inr ⟨rfl, tx, rfl⟩)
    · exact .inl rfl
  case h_4 => exact .inl rfl

/-- An event that is neither the tick nor an initialisation leaves MRDY as it was. -/
theorem SlaveEffect.mrdy_cases {i : Instr} {s t : State} (h : SlaveEffect s t i) :
    t.slave.mrdy = s.slave.mrdy ∨ (t.slave.mrdy = false ∧ ∃ ok, i = .sInit ok) ∨ (i = .sTick ∧ t = poll (ticked s)) := by
  cases h with
  | untouched slave | fetched slave => exact .inl (by rw [slave])
  | cleared slave => exact .inl (by rw [slave])
  | @initialised ok slave => exact .inr (.inl ⟨by rw [slave], ok, rfl⟩)
  | polled _ next => exact .inr (.inr ⟨rfl, next⟩)
  | @queued c p _ slave =>
    obtain ⟨_, _, _, _, hslave⟩ := queueMessage_slave s c p
    exact .inl (by rw [slave, hslave])
  | exchanged b slave =>
    obtain ⟨-, -, _, _, _, _, _, _, hslave⟩ := exchange_writes s b
    exact .inl (by rw [slave, hslave])

/-- What a step can do to MRDY (R186, R193, R194, R180). -/
theorem step_mrdy_cases {s t : State} (h : step s = .next t) :
    t.slave.mrdy = s.slave.mrdy ∨ (t.slave.mrdy = false ∧ ∃ ok, nextEvent s = .sInit ok) ∨
    (t.slave.mrdy = true ∧ nextEvent s = .sTick ∧ s.slave.state = .idle ∧ csLine s = false ∧ s.slave.txPending = true) ∨
    (t.slave.mrdy = false ∧ nextEvent s = .sTick ∧ s.slave.state = .tx ∧ t.slave.state = .idle) := by
  obtain ⟨hslave, -, hmaster⟩ := afterChoice_link s
  have same_line : csLine (ticked (afterChoice s)) = csLine s := by simp [csLine, ticked, hmaster]
  have same_slave : (ticked (afterChoice s)).slave = (ticked s).slave := by simp [ticked, hslave]
  rcases (step_slaveEffect h).mrdy_cases with same | init | ⟨tick, rfl⟩
  · exact .inl (by rw [same, hslave])
  · exact .inr (.inl init)
  · have moves := poll_mrdy_cases (ticked (afterChoice s))
    rw [same_line, same_slave] at moves
    rcases moves with same | ⟨rises, idle, released, pending⟩ | ⟨falls, tx, ended⟩
    · exact .inl same
    · exact .inr (.inr (.inl ⟨rises, tick, idle, released, pending⟩))
    · exact .inr (.inr (.inr ⟨falls, tick, tx, ended⟩))

/-- Settles O51: of what a step can do to MRDY, only the announcement raises it, and only an initialisation and the end of a
`TX` session lower it. -/
theorem mrdyMovesOnlyAsAnnounced : Obligations.MrdyMovesOnlyAsAnnounced := by
  intro s t _ _ hstep
  refine ⟨fun was_clear is_set => ?rises, fun was_set is_clear => ?falls⟩
  case rises =>
    rcases step_mrdy_cases hstep with same | ⟨falls, -⟩ | ⟨-, announced⟩ | ⟨falls, -⟩
    · cases is_set.symm.trans (same.trans was_clear)
    · cases is_set.symm.trans falls
    · exact announced
    · cases is_set.symm.trans falls
  case falls =>
    rcases step_mrdy_cases hstep with same | ⟨-, init⟩ | ⟨rises, -⟩ | ⟨-, ended⟩
    · cases is_clear.symm.trans (same.trans was_set)
    · exact .inl init
    · cases rises.symm.trans is_clear
    · exact .inr ended

end Sys2Proof.Machine

/-! PROOFS. The master transfer controller (R230 to R254): each of its rows where it is enabled, from the start of an operation
over the wait and the clocking to the result; and with the rows the whole wait that no slave answers and, under the invariant,
what a settled operation returns. -/

namespace Sys2Proof.Machine

/-! ### Initialisation, the tick and the start events -/

/-- `M.TICK` advances the counter (R231). -/
theorem exec_mTick {s : State} (up : s.master.inited = true) :
    exec .mTick s = .next (s.withMaster { s.master with now := s.master.now + 1 }) :=
  whenEnabled_next.2 ⟨up, rfl⟩

/-- Settles O31: the initialisation writes what R230 lists, and the tick the counter. -/
theorem masterInitAndTick : Obligations.MasterInitAndTick := fun _ => ⟨rfl, exec_mTick⟩

/-- Settles O32: between operations either start event writes the record of the operation it starts. -/
theorem operationsStartByAssertingChipSelect : Obligations.OperationsStartByAssertingChipSelect :=
  fun bytes cap _ up idle => ⟨exec_mSend up idle bytes, exec_mRecv up idle cap⟩

/-! ### The wait -/

/-- `M.WAIT` with SRDY deasserted and the bound reached ends the operation with `Timeout` (R237). -/
theorem exec_mWait_expired {s : State} (up : s.master.inited = true) (waiting : s.master.phase = .wait)
    (unready : srdyLine s = false) (expired : 100 ≤ (s.master.now - s.master.tStart).toNat) :
    exec .mWait s =
      .next (returnMaster .errTimeout (s.withMaster { s.master with cs := false, phase := .idle })) :=
  whenEnabled_next.2 ⟨(inPhase_iff s).2 ⟨up, waiting⟩, by
    rw [unready, if_neg Bool.false_ne_true, if_pos (isTimeUp_iff.2 expired)]⟩

/-- `M.WAIT` with SRDY deasserted below the bound changes nothing (R239). -/
theorem exec_mWait_early {s : State} (up : s.master.inited = true) (waiting : s.master.phase = .wait)
    (unready : srdyLine s = false) (early : (s.master.now - s.master.tStart).toNat < 100) : exec .mWait s = .next s :=
  whenEnabled_next.2 ⟨(inPhase_iff s).2 ⟨up, waiting⟩, by
    rw [unready, if_neg Bool.false_ne_true, if_neg fun expired => early.not_ge (isTimeUp_iff.1 expired)]⟩

/-- Settles O33: readiness, with the busy check of a `send` alone; then the bound; then nothing. -/
theorem waitOutcomes : Obligations.WaitOutcomes := by
  intro s up waiting
  cases ready : srdyLine s with
  | true =>
    rw [exec_mWait_ready up waiting ready, if_pos rfl]
    cases op : s.master.op with
    | send =>
      cases mrdy : mrdyLine s with
      | true =>
        rw [masterReady_busy op mrdy, if_pos ⟨rfl, rfl⟩]
        rfl
      | false =>
        rw [masterReady_send op mrdy, if_neg (by simp)]
        rfl
    | recv =>
      rw [masterReady_recv op, if_neg (by simp)]
      rfl
  | false =>
    rw [if_neg Bool.false_ne_true]
    obtain expired | early := le_or_gt 100 (s.master.now - s.master.tStart).toNat
    · rw [exec_mWait_expired up waiting ready expired, if_pos expired]
      rfl
    · rw [exec_mWait_early up waiting ready early, if_neg early.not_ge]

/-- The state once `k` milliseconds have passed on the master's counter and nothing else has happened. -/
def masterWaited (k : Nat) (s : State) : State :=
  s.withMaster { s.master with now := s.master.now + BitVec.ofNat 32 k }

/-- One tick of the master more advances its counter by one. -/
theorem exec_mTick_masterWaited {s : State} (up : s.master.inited = true) (k : Nat) :
    exec .mTick (masterWaited k s) = .next (masterWaited (k + 1) s) := by
  rw [exec_mTick (s := masterWaited k s) up]
  simp only [masterWaited, withMaster_master, BitVec.ofNat_add, BitVec.add_assoc]
  rfl

/-- Ticks of the master only advance its counter (R231). -/
theorem execAll_mTick {s : State} (up : s.master.inited = true) (n : Nat) :
    execAll (List.replicate n .mTick) s = .next (masterWaited n s) := by
  have start : s = masterWaited 0 s := by
    rw [masterWaited, BitVec.add_zero]
    rfl
  obtain ⟨t, run, rfl⟩ := execAll_replicate (P := fun k t => t = masterWaited k s) (n := n)
    (fun k t _ ht => ⟨_, ht ▸ exec_mTick_masterWaited up k, rfl⟩) start
  exact run

/-- The time elapsed since an operation was started, which the wait compares (R237). -/
theorem elapsed_masterWaited {s : State} (start : s.master.now = s.master.tStart) {k : Nat} (hk : k < 2 ^ 32) :
    ((masterWaited k s).master.now - (masterWaited k s).master.tStart).toNat = k := by
  have elapsed : (masterWaited k s).master.now - (masterWaited k s).master.tStart = BitVec.ofNat 32 k := by
    simp [masterWaited, start]
  rw [elapsed, BitVec.toNat_ofNat, Nat.mod_eq_of_lt hk]

/-- A wait after ticks of the master alone is the wait of the advanced counter. -/
theorem execAll_mTick_mWait {s t : State} (up : s.master.inited = true) {n : Nat}
    (wait : exec .mWait (masterWaited n s) = .next t) :
    execAll (List.replicate n .mTick ++ [.mWait]) s = .next t := by
  rw [execAll_append (execAll_mTick up n), execAll_cons wait]
  rfl

/-- Settles O60: the ticks leave SRDY deasserted, so the wait finds the elapsed time below the bound, and then at it. -/
theorem unansweredWaitTimesOut : Obligations.UnansweredWaitTimesOut := by
  intro s up waiting start unready
  constructor
  · intro k below
    have early := (elapsed_masterWaited start (k := k) (by omega)).trans_lt below
    exact execAll_mTick_mWait up (exec_mWait_early (s := masterWaited k s) up waiting unready early)
  · have expired := (elapsed_masterWaited start (k := 100) (by omega)).ge
    exact execAll_mTick_mWait up (exec_mWait_expired (s := masterWaited 100 s) up waiting unready expired)

/-! ### The clocking -/

/-- Settles O34: below the count the exchange carries the byte at the index; at the count nothing is left to clock. -/
theorem sendClocksOneByte : Obligations.SendClocksOneByte := by
  intro s up clock op cs count
  refine ⟨fun more => ⟨_, exec_xfer up clock cs _, ?_⟩, fun last => exec_mClockSend_last up clock op last.not_lt⟩
  have byte : s.master.tx[s.master.idx]? = some (s.master.tx.getD s.master.idx 0) := by
    rw [List.getElem?_eq_getElem (count ▸ more), List.getD_eq_getElem _ _ (count ▸ more)]
  exact exec_mClockSend_byte up clock op more byte

/-- Settles O35: below the bound the exchange of the dummy brings the byte that is captured; at the bound none is left. -/
theorem receiveClocksOneByte : Obligations.ReceiveClocksOneByte := by
  intro s up clock op cs wf
  refine ⟨fun more => ⟨_, _, exec_xfer up clock cs _, exec_mClockRecv_byte up clock op more, ?_⟩,
    fun last => exec_mClockRecv_last up clock op last.not_gt⟩
  exact Memory.read_write wf _ _

/-! ### The result -/

/-- `M.SETTLE` ends the operation with its result (R242). -/
theorem exec_mSettle {s : State} (up : s.master.inited = true) (settling : s.master.phase = .settle) :
    exec .mSettle s = .next (settled s) :=
  whenEnabled_next.2 ⟨(inPhase_iff s).2 ⟨up, settling⟩, rfl⟩

/-- `M.RELEASE` deasserts chip-select between operations (R254). -/
theorem exec_mRelease {s : State} (up : s.master.inited = true) (idle : s.master.phase = .idle) :
    exec .mRelease s = .next (s.withMaster { s.master with cs := false }) :=
  whenEnabled_next.2 ⟨(inPhase_iff s).2 ⟨up, idle⟩, rfl⟩

/-- The result of an operation: `Ok`, with the captured count for a `receive` (R242). -/
theorem settleResult_eq (m : Master) : settleResult m = if m.op = .send then .sendOk else .recvOk m.idx := by
  cases op : m.op <;> simp [settleResult, op]

/-- Settles O36: both deassert chip-select, and the settle step returns the operation's result. -/
theorem settleAndReleaseDeassertChipSelect : Obligations.SettleAndReleaseDeassertChipSelect := by
  refine fun s up => ⟨fun settling => ?_, exec_mRelease up⟩
  rw [exec_mSettle up settling, settled, settleResult_eq]
  rfl

/-- What a finished `receive` has captured: the whole frame that LENGTH announced, or as much of it as the caller has room for;
with room for less than the two bytes up to LENGTH, that room (R249, R250). -/
theorem MasterInv.captured_count {m : Master} (h : MasterInv m) (settling : m.phase = .settle) (op : m.op = .recv) :
    m.idx = if 2 ≤ m.cap then min (2 + (Memory.read m.rx 1).toNat) m.cap else m.cap := by
  obtain ⟨-, -, -, ⟨-, -, expected⟩, bound⟩ := (masterInv_recv (by simp [settling]) op).1 h
  have at_bound := bound settling
  rw [expected, expectedAt] at at_bound
  split_ifs at at_bound ⊢ <;> omega

/-- Settles O48: under the invariant the index of a settling operation is the number of bytes it had to clock. -/
theorem settledOperationsAreWhole : Obligations.SettledOperationsAreWhole := by
  intro s hlink up settling
  obtain ⟨-, -, hup⟩ := linkInv_iff.1 hlink
  refine ⟨_, exec_mSettle up settling, fun op => ?receive, fun op => ⟨?send, ?clocked⟩⟩
  case receive =>
    rw [← (hup up).captured_count settling op]
    simp [settled, settleResult_eq, op]
  case send => simp [settled, settleResult_eq, op]
  case clocked =>
    obtain ⟨count, -, -, -, all_clocked⟩ := (masterInv_send (by simp [settling]) op).1 (hup up)
    exact (all_clocked settling).trans count

end Sys2Proof.Machine

/-! PROOFS. The command dispatcher (R270 to R282): the three routes of `D.DISPATCH`, what each frame row comes to on its route
(R273 to R277), and the mailbox that the application looks at and takes from (R280 to R282). -/

namespace Sys2Proof.Machine

/-! ### The three routes -/

/-- A frame that fits the mailbox is an operand that `D.DISPATCH` takes (R130, R270). -/
theorem exec_dDispatch_fits {s : State} {f : Frame} (up : s.slave.inited = true) (wf : f.WellFormed = true)
    (fits : f.length ≤ 126) : exec (.dDispatch f) s = .next (dispatchFrame f s) := by
  have in_mailbox : ¬ (0x80 ≤ f.command ∧ 126 < f.length) := fun ⟨_, long⟩ => fits.not_gt long
  rw [exec_dDispatch up, if_neg (by simp [wf]), if_neg in_mailbox]

/-- The application route is the mailbox (R273). -/
theorem dispatchFrame_app {f : Frame} (app : 0x80 ≤ f.command) (s : State) : dispatchFrame f s = postMessage f s :=
  if_pos app

/-- The self-test route queues the answer and discards the result (R206, R275). -/
theorem dispatchFrame_test {f : Frame} (test : f.command = 0x7E) (s : State) :
    dispatchFrame f s = (queueMessage 0x7F [] s).2 := by
  have below : ¬ 0x80 ≤ f.command := by
    rw [test]
    decide
  exact (if_neg below).trans (if_pos test)

/-- Every other board command is an output event (R274). -/
theorem dispatchFrame_board {f : Frame} (board : f.command < 0x80) (other : f.command ≠ 0x7E) (s : State) :
    dispatchFrame f s = emitBoard f.command f.payload s :=
  (if_neg (BitVec.not_le.2 board)).trans (if_neg other)

/-- The self-test route is `S.QUEUE` of the answer but for the result, which reaches nobody (R206). -/
theorem dispatchFrame_test_of_sQueue {f : Frame} {s t : State} (up : s.slave.inited = true) (test : f.command = 0x7E)
    (queued : exec (.sQueue 0x7F []) s = .next t) : dispatchFrame f s = { t with env := s.env } := by
  rw [exec_sQueue up] at queued
  cases queued
  rw [dispatchFrame_test test, ← queueMessage_env s 0x7F []]
  rfl

/-- The mailbox after an application frame holds COMMAND and payload and every other byte as before (R79, R273). -/
theorem read_postMessage {s : State} {f : Frame} (cells : s.mailbox.buf.wf) (wf : f.WellFormed = true)
    (fits : f.length ≤ 126) (a : Nat) : Memory.read (postMessage f s).mailbox.buf a =
      if a < f.length then (f.command :: f.payload).getD a 0 else Memory.read s.mailbox.buf a := by
  obtain ⟨-, -, stored⟩ := postMessage_mailbox s cells fits
  rw [Frame.length_eq wf]
  exact stored a

/-- Settles O16: the routes exclude each other, and each is one shared operation. -/
theorem dispatchRoutesByCommand : Obligations.DispatchRoutesByCommand := by
  intro f s up wf fits cells
  rw [exec_dDispatch_fits up wf fits]
  refine ⟨fun app => ?_, fun test => ?_, fun board other => ?_⟩
  · obtain ⟨-, len, -⟩ := postMessage_mailbox s cells fits
    exact ⟨_, _, congrArg _ (dispatchFrame_app app s), len, read_postMessage cells wf fits⟩
  · exact ⟨_, exec_sQueue up _ _, congrArg _ (dispatchFrame_test_of_sQueue up test (exec_sQueue up _ _))⟩
  · exact congrArg _ (dispatchFrame_board board other s)

/-! ### The frame rows on their routes -/

/-- The frame of a row whose LENGTH fits is a value of the spec's type `Frame` (R103, R130). -/
theorem frame_wellFormed {len : Byte} {payload : List Byte} (fits : lengthFits len payload = true) (command : Byte) :
    Frame.WellFormed ⟨len.toNat, command, payload⟩ = true := fits

/-- A frame row that a buffer holds whole dispatches its frame (R190, R271). -/
theorem exec_wholeFrame {i : Instr} {len command : Byte} {payload : List Byte} {s : State} (up : s.slave.inited = true)
    (bytes : encode i = some (frameBytes len command payload)) (fits : lengthFits len payload = true)
    (short : len.toNat ≤ 126) : exec i s = .next (dispatchFrame ⟨len.toNat, command, payload⟩ s) := by
  have counted : len.toNat = 1 + payload.length := Frame.length_eq (frame_wellFormed fits command)
  have held : (frameBytes len command payload).length ≤ Config.link.bufCap := by
    simp only [frameBytes, List.length_cons]
    omega
  have valid : validateFrame (frameBytes len command payload) = .ok ⟨len.toNat, command, payload⟩ := by
    rw [validateFrame_frameBytes, if_neg (by omega), if_neg (by omega), take_of_lengthFits fits]
  rw [exec_of_encode up bytes, List.take_of_length_le held, deliverBytes_ok valid]

/-- Settles O11: the frame takes the self-test route, which is `S.QUEUE` of an answer that always encodes. -/
theorem testFrameQueuesTheAnswer : Obligations.TestFrameQueuesTheAnswer := by
  intro len payload s up fits short cells
  obtain ⟨m, n, answer, queued⟩ := queueOperationOutcomes 0x7F [] s up cells
  obtain ⟨three, stored⟩ := answer (by simp)
  obtain rfl : n = 3 := Fin.ext three
  refine ⟨m, ?_, stored⟩
  rw [exec_wholeFrame up rfl fits short, dispatchFrame_test_of_sQueue up rfl queued, if_neg (by simp : ¬ 125 < _)]
  split_ifs <;> rfl

/-- The commands of row `BOARD` take the route of output events (R109, R274). -/
theorem board_route {c : Byte} (h : c.toNat < 126) : c < 0x80 ∧ c ≠ 0x7E :=
  ⟨by bv_omega, by bv_omega⟩

/-- The commands of row `APP` take the route into the mailbox (R106, R273). -/
theorem app_route {c : Byte} (h : 128 ≤ c.toNat) : 0x80 ≤ c := by bv_omega

/-- Settles O12: each row dispatches its frame, whose command is on the route of output events. -/
theorem boardFramesEmitTheirCommand : Obligations.BoardFramesEmitTheirCommand := by
  intro len command payload s up fits short board
  have emits {i : Instr} {c : Byte} (bytes : encode i = some (frameBytes len c payload)) (route : c < 0x80 ∧ c ≠ 0x7E) :
      exec i s = .next (emitBoard c payload s) := by
    rw [exec_wholeFrame up bytes fits short, dispatchFrame_board route.1 route.2]
  have named (k : Fin 126) := board_route (boardCommand_lt k)
  exact ⟨emits rfl (board_route (isBoardCommand_iff.1 board)), emits rfl (by decide), emits rfl (named 0),
    emits rfl (named 1), emits rfl (named 2), emits rfl (named 3)⟩

/-- Settles O13: each row dispatches its frame, whose command is on the route into the mailbox. -/
theorem applicationFramesFillTheMailbox : Obligations.ApplicationFramesFillTheMailbox := by
  intro len command payload s up fits short app cells
  have posts {i : Instr} {c : Byte} (bytes : encode i = some (frameBytes len c payload)) (above : 128 ≤ c.toNat) :
      exec i s = .next (postMessage ⟨len.toNat, c, payload⟩ s) := by
    rw [exec_wholeFrame up bytes fits short, dispatchFrame_app (app_route above)]
  obtain ⟨-, length, -⟩ := postMessage_mailbox (f := ⟨len.toNat, command, payload⟩) s cells short
  exact ⟨fun c => (postMessage ⟨len.toNat, c, payload⟩ s).mailbox.buf, _, length,
    fun c => read_postMessage cells (frame_wellFormed fits c) short,
    posts rfl (isAppCommand_iff.1 app), posts rfl (appCommand_ge 0), posts rfl (appCommand_ge 1),
    posts rfl (appCommand_ge 2), posts rfl (appCommand_ge 3), posts rfl (appCommand_ge 4), posts rfl (appCommand_ge 5)⟩

/-! ### The mailbox -/

/-- `D.CHECK` of an unread message returns its command (R280). -/
theorem exec_dCheck_new {s : State} (up : s.slave.inited = true) (new : s.mailbox.new = true) :
    exec .dCheck s = .next (returnApp (.checked (some (Memory.read s.mailbox.buf 0))) s) :=
  whenEnabled_next.2 ⟨up, by rw [if_pos new]⟩

/-- `D.CHECK` without an unread message returns none (R280). -/
theorem exec_dCheck_none {s : State} (up : s.slave.inited = true) (clear : s.mailbox.new = false) :
    exec .dCheck s = .next (returnApp (.checked none) s) :=
  whenEnabled_next.2 ⟨up, by rw [clear]; rfl⟩

/-- `D.GET` of an unread message returns its bytes and clears the flag (R281). -/
theorem exec_dGet_new {s : State} (up : s.slave.inited = true) (new : s.mailbox.new = true) :
    exec .dGet s = .next (returnApp (.got (Memory.readBlock s.mailbox.buf 0 s.mailbox.len.val))
      (s.withMailbox { s.mailbox with new := false })) :=
  whenEnabled_next.2 ⟨up, by rw [if_pos new]⟩

/-- `D.GET` without an unread message returns the empty sequence (R281). -/
theorem exec_dGet_none {s : State} (up : s.slave.inited = true) (clear : s.mailbox.new = false) :
    exec .dGet s = .next (returnApp (.got []) (s.withMailbox { s.mailbox with new := false })) :=
  whenEnabled_next.2 ⟨up, by rw [clear]; rfl⟩

/-- Settles O37: by the new flag. -/
theorem mailboxOperations : Obligations.MailboxOperations := by
  intro s up
  have bytes : (List.range s.mailbox.len.val).map (Memory.read s.mailbox.buf) =
      Memory.readBlock s.mailbox.buf 0 s.mailbox.len.val := by simp [Memory.readBlock]
  cases new : s.mailbox.new with
  | true =>
    rw [bytes]
    exact ⟨exec_dCheck_new up new, exec_dGet_new up new⟩
  | false => exact ⟨exec_dCheck_none up new, exec_dGet_none up new⟩

/-- The mailbox gives an application frame back whole (R85, R273). -/
theorem readBlock_postMessage {s : State} {f : Frame} (cells : s.mailbox.buf.wf) (wf : f.WellFormed = true)
    (fits : f.length ≤ 126) : Memory.readBlock (postMessage f s).mailbox.buf 0 (postMessage f s).mailbox.len.val =
      f.command :: f.payload := by
  obtain ⟨-, len, -⟩ := postMessage_mailbox s cells fits
  rw [len, Frame.length_eq wf, Nat.add_comm]
  exact Memory.readBlock_writeBlock cells (f.command :: f.payload)

/-- Settles O38: the dispatch sets the flag and `D.GET` clears it, which decides what each of the four calls returns. -/
theorem mailboxHandsOverOnce : Obligations.MailboxHandsOverOnce := by
  intro f s up wf fits app cells
  have dispatched : exec (.dDispatch f) s = .next (postMessage f s) := by
    rw [exec_dDispatch_fits up wf fits, dispatchFrame_app app]
  have command : Memory.read (postMessage f s).mailbox.buf 0 = f.command := by
    have positive : 0 < f.length := by rw [Frame.length_eq wf]; omega
    rw [read_postMessage cells wf fits, if_pos positive]
    rfl
  refine ⟨_, _, _, _, _, dispatched, exec_dCheck_new up rfl, exec_dGet_new up rfl, exec_dCheck_none up rfl,
    exec_dGet_none up rfl, ?checked, ?got, rfl, rfl⟩
  case checked => rw [returnApp_env, command]
  case got => rw [returnApp_env, returnApp_mailbox, readBlock_postMessage cells wf fits]

end Sys2Proof.Machine

/-! PROOFS. Two laws across the families: the slave's transition table (R288), and that in a state that meets the invariant
every step answers a next state (R292, R301). -/

namespace Sys2Proof.Machine

/-! ### The slave's transition table -/

/-- A poll in `IDLE` leaves it with chip-select asserted alone, in the direction that MRDY gives (R154, R185). -/
theorem pollIdle_state (s : State) : (pollIdle s).slave.state =
    if csLine s = true then (if s.slave.mrdy = true then .tx else .rx) else s.slave.state := by
  rcases pollIdle_cases s with ⟨selected, h⟩ | ⟨released, -, -, h⟩ | ⟨released, -, h⟩ <;> rw [h]
  · rw [if_pos selected, openSession_slave]
  · rw [if_neg (by simp [released]), withSlave_slave]
  · rw [if_neg (by simp [released])]

/-- A poll in `RX` goes back to `IDLE` on completion and on timeout, and else stays (R188). -/
theorem pollRx_state (s : State) : (pollRx s).slave.state =
    if csLine s = false ∨ 1000 ≤ (s.slave.now - s.slave.tStart).toNat then .idle else s.slave.state := by
  rcases pollRx_cases s with ⟨released, h⟩ | ⟨-, late, h⟩ | ⟨selected, early, h⟩ <;> rw [h]
  · rw [if_pos (.inl released), closeRx_slave]
  · rw [if_pos (.inr late), closeRx_slave]
  · rw [if_neg (not_or.2 ⟨by simp [selected], early.not_ge⟩)]

/-- A poll in `TX` goes back to `IDLE` on completion and on timeout, and else stays (R193, R194). -/
theorem pollTx_state (s : State) : (pollTx s).slave.state =
    if csLine s = false ∨ 1000 ≤ (s.slave.now - s.slave.tStart).toNat then .idle else s.slave.state := by
  rcases pollTx_cases s with ⟨released, h⟩ | ⟨-, late, h⟩ | ⟨selected, early, h⟩ <;> rw [h]
  · rw [if_pos (.inl released), closeTx_slave]
  · rw [if_pos (.inr late), closeTx_slave]
  · rw [if_neg (not_or.2 ⟨by simp [selected], early.not_ge⟩)]

/-- No poll writes the counter: the tick alone advances it (R182). -/
theorem poll_now (s : State) : (poll s).slave.now = s.slave.now := by
  unfold poll
  split
  case h_1 => rcases pollIdle_cases s with ⟨-, h⟩ | ⟨-, -, -, h⟩ | ⟨-, -, h⟩ <;> rw [h] <;> rfl
  case h_2 =>
    obtain ⟨_, _, _, _, delivered⟩ := deliverBytes_slave s (heldBytes s)
    rcases pollRx_cases s with ⟨-, h⟩ | ⟨-, -, h⟩ | ⟨-, -, h⟩ <;> rw [h]
    · rw [closeRx_slave, delivered]
    · rfl
  case h_3 => rcases pollTx_cases s with ⟨-, h⟩ | ⟨-, -, h⟩ | ⟨-, -, h⟩ <;> rw [h] <;> rfl
  case h_4 => rfl

/-- Settles O50: the tick is the poll of the state with the counter advanced, whose chip-select and MRDY are those before; each
link state's poll gives that state's row of the table. -/
theorem slaveTransitionTable : Obligations.SlaveTransitionTable := by
  intro s up
  refine ⟨poll (ticked s), execSTick_eq up, poll_now (ticked s), ?_⟩
  rw [poll, ticked_state]
  cases row : s.slave.state with
  | idle =>
    have table := pollIdle_state (ticked s)
    rwa [ticked_state, row] at table
  | rx =>
    have table := pollRx_state (ticked s)
    rwa [ticked_state, row] at table
  | tx =>
    have table := pollTx_state (ticked s)
    rwa [ticked_state, row] at table
  | error => exact row

/-! ### No step stops -/

/-- `M.CLOCK` of `send` where it is enabled completes: the index it reads at is below the count, which is the number of bytes
of the operation (R235, R240). -/
theorem exec_mClockSend_completes {s : State} (clocking_send : clocking .send s = true)
    (inv : s.master.inited = true → MasterInv s.master) : ∃ t, exec .mClockSend s = .next t := by
  obtain ⟨up, clock, op⟩ := (clocking_iff s).1 clocking_send
  obtain ⟨count, -⟩ := inv up
  by_cases more : s.master.idx < s.master.n
  · exact ⟨_, exec_mClockSend_byte up clock op more (List.getElem?_eq_getElem (count ▸ more))⟩
  · exact ⟨_, exec_mClockSend_last up clock op more⟩

/-- `M.CLOCK` of `receive` where it is enabled completes, with a byte or without (R248, R249). -/
theorem exec_mClockRecv_completes {s : State} (clocking_recv : clocking .recv s = true) :
    ∃ t, exec .mClockRecv s = .next t := by
  obtain ⟨up, clock, op⟩ := (clocking_iff s).1 clocking_recv
  by_cases more : s.master.idx < min s.master.expected s.master.cap
  · exact ⟨_, exec_mClockRecv_byte up clock op more⟩
  · exact ⟨_, exec_mClockRecv_last up clock op more⟩

/-- An event that is enabled completes. Of all the events only `M.CLOCK` of `send` has a fault, and the master's invariant
excludes it. -/
theorem exec_event_completes {i : Instr} {s : State} (event : isEvent i = true) (runs : enabled i s = true)
    (inv : s.master.inited = true → MasterInv s.master) : ∃ t, exec i s = .next t := by
  cases i
  case mClockSend => exact exec_mClockSend_completes runs inv
  case mClockRecv => exact exec_mClockRecv_completes runs
  case sInit | mInit => exact ⟨_, rfl⟩
  case sTick | sQueue | sClrdiag | dCheck | dGet => exact ⟨_, whenEnabled_next.2 ⟨runs, rfl⟩⟩
  case mTick | mSend | mRecv | mWait | mSettle | mRelease => exact ⟨_, whenEnabled_next.2 ⟨runs, rfl⟩⟩
  -- the other rows are no events
  all_goals cases event

/-- Settles O46: a choice that is an enabled event completes, and any other is only used up. -/
theorem stepNeverStops : Obligations.StepNeverStops := by
  intro s hlink
  by_cases runs : EventEnabled (nextEvent s) s
  · obtain ⟨event, enabled_event⟩ := Bool.and_eq_true_iff.1 (eventEnabled_iff.1 runs)
    obtain ⟨-, -, inv⟩ := linkInv_iff.1 (linkInv_afterChoice.2 hlink)
    rw [step_of_eventEnabled runs]
    exact exec_event_completes event ((enabled_afterChoice _ s).trans enabled_event) inv
  · exact ⟨_, step_of_not_eventEnabled runs⟩

end Sys2Proof.Machine

/-! PROOFS. Time and contexts: elapsed time across a wrap of the counter (R323), and which context of the link writes which part
of the state (R315, R320). -/

namespace Sys2Proof.Machine

/-! ### Elapsed time -/

/-- The counter has moved on by the true elapsed time, whether or not it wrapped on the way (R323). -/
theorem toNat_elapsed (start : Word32) {elapsed : Nat} (h : elapsed < 2 ^ 32) :
    (start + BitVec.ofNat 32 elapsed - start).toNat = elapsed := by
  have moved : start + BitVec.ofNat 32 elapsed - start = BitVec.ofNat 32 elapsed := by
    rw [BitVec.add_comm, BitVec.add_sub_cancel]
  rw [moved, BitVec.toNat_ofNat, Nat.mod_eq_of_lt h]

/-- Settles O40: the modular difference is the elapsed time; of the worked example it is `0x3E8`. -/
theorem elapsedTimeIsModular : Obligations.ElapsedTimeIsModular := by
  refine ⟨fun start elapsed dur h => ?_, by decide, by decide⟩
  rw [isTimeUp, toNat_elapsed start h]

/-! ### What an instruction that answers had to start from -/

/-- Only an instruction that is enabled answers a next state (R10). -/
theorem enabled_of_next {i : Instr} {s t : State} (h : exec i s = .next t) : enabled i s = true := by
  obtain ⟨body, guarded⟩ := exec_guarded i s
  exact (whenEnabled_next.1 (guarded ▸ h)).1

/-- A row with bytes is enabled exactly of an initialised slave (R87). -/
theorem enabled_of_encode {i : Instr} {bytes : List Byte} (row : encode i = some bytes) (s : State) :
    enabled i s = s.slave.inited := by
  cases i <;> cases row
  all_goals rfl

/-- Every row with bytes that answers a next state has delivered a frame's bytes (R87, R190). -/
theorem exec_frameRow_next {i : Instr} {bytes : List Byte} {s t : State} (row : encode i = some bytes)
    (h : exec i s = .next t) : t = deliverBytes (bytes.take Config.link.bufCap) s := by
  have up : s.slave.inited = true := (enabled_of_encode row s).symm.trans (enabled_of_next h)
  exact Host.Outcome.next.inj (h.symm.trans (exec_of_encode up row))

/-- The poll row that answers is the poll of the slave's own state (R183). -/
theorem exec_pollRow_next {i : Instr} {s t : State} (row : i ∈ [.sPollIdle, .sPollRx, .sPollTx, .sPollError])
    (h : exec i s = .next t) : t = poll s := by
  simp only [List.mem_cons, List.not_mem_nil, or_false] at row
  obtain rfl | rfl | rfl | rfl := row
  all_goals
    obtain ⟨-, hstate⟩ := (slaveIn_iff s).1 (enabled_of_next h)
    obtain rfl := Host.Outcome.next.inj (whenEnabled_next.1 h).2
    rw [poll, hstate]

/-- The callback row that answers is the exchange with the slave in that row's state (R195). -/
theorem exec_byteRow_next {i : Instr} {b : Byte} {s t : State}
    (row : i = .sByteRx b ∨ i = .sByteTx b ∨ i = .sByteOther b) (h : exec i s = .next t) : t = exchange b s := by
  have runs := enabled_of_next h
  obtain rfl | rfl | rfl := row <;> obtain rfl := Host.Outcome.next.inj (whenEnabled_next.1 h).2
  · obtain ⟨up, rx⟩ := (slaveIn_iff s).1 runs
    rw [exchange_rx up rx]
  · obtain ⟨up, tx⟩ := (slaveIn_iff s).1 runs
    rw [exchange, slaveUp, if_pos up, slaveByte, tx]
  · obtain outside | outside := Bool.or_eq_true_iff.1 runs
    all_goals
      obtain ⟨up, hstate⟩ := (slaveIn_iff s).1 outside
      rw [exchange, slaveUp, if_pos up, slaveByte, hstate]

/-- A dispatch that completes is the routing of its frame (R270). -/
theorem exec_dDispatch_next {f : Frame} {s t : State} (h : exec (.dDispatch f) s = .next t) : t = dispatchFrame f s := by
  obtain ⟨-, hbody⟩ := whenEnabled_next.1 h
  split_ifs at hbody
  exact (Host.Outcome.next.inj hbody).symm

/-! ### The three contexts

The instructions that run in each context of R320. -/

/-- The operations of the master's main loop other than the clocking. -/
def OfMaster (i : Instr) : Prop :=
  i ∈ [.mInit, .mTick, .mWait, .mSettle, .mRelease] ∨ (∃ b, i = .mSend b) ∨ ∃ c, i = .mRecv c

/-- The operations of the slave's main loop: ticks and polls, initialisation, the application's calls, and dispatch. -/
def OfSlave (i : Instr) : Prop :=
  i ∈ [.sTick, .sPollIdle, .sPollRx, .sPollTx, .sPollError, .dCheck, .dGet] ∨ (∃ ok, i = .sInit ok) ∨
    (∃ c p, i = .sQueue c p) ∨ (∃ m, i = .sClrdiag m) ∨ (∃ f, i = .dDispatch f) ∨ (encode i).isSome = true

/-- The exchange of a byte: the master's clocking, the exchange by itself, and the callback inside it. -/
def OfExchange (i : Instr) : Prop :=
  i ∈ [.mClockSend, .mClockRecv] ∨ ∃ b, i = .xfer b ∨ i = .sByteRx b ∨ i = .sByteTx b ∨ i = .sByteOther b

/-- The master's main loop writes neither the slave nor the mailbox. -/
theorem OfMaster.frame {i : Instr} {s t : State} (own : OfMaster i) (h : exec i s = .next t) :
    t.slave = s.slave ∧ t.mailbox = s.mailbox := by
  cases i
  case mInit =>
    obtain rfl := Host.Outcome.next.inj h
    exact ⟨rfl, rfl⟩
  case mWait =>
    obtain ⟨_, _, rfl⟩ | ⟨-, rfl⟩ | rfl := execMWait_cases h <;> exact ⟨rfl, rfl⟩
  case mTick | mSend | mRecv | mSettle | mRelease =>
    obtain rfl := Host.Outcome.next.inj (whenEnabled_next.1 h).2
    exact ⟨rfl, rfl⟩
  -- the other rows are not of this context
  all_goals simp [OfMaster] at own

/-- The slave's main loop writes no master state: the polls, the transmit path and the delivery of a frame have none to write. -/
theorem OfSlave.frame {i : Instr} {s t : State} (own : OfSlave i) (h : exec i s = .next t) : t.master = s.master := by
  obtain listed | ⟨ok, rfl⟩ | ⟨c, p, rfl⟩ | ⟨m, rfl⟩ | ⟨f, rfl⟩ | row := own
  · cases i
    case sTick =>
      obtain ⟨-, rfl⟩ := execSTick_next h
      exact poll_master (ticked s)
    case sPollIdle | sPollRx | sPollTx | sPollError =>
      rw [exec_pollRow_next (by simp) h, poll_master]
    case dCheck | dGet =>
      obtain rfl := Host.Outcome.next.inj (whenEnabled_next.1 h).2
      rfl
    -- the other rows are not in the list
    all_goals simp at listed
  · obtain rfl := Host.Outcome.next.inj h
    rfl
  · obtain rfl := Host.Outcome.next.inj (whenEnabled_next.1 h).2
    rw [returnApp_master, queueMessage_master]
  · obtain rfl := Host.Outcome.next.inj (whenEnabled_next.1 h).2
    rfl
  · rw [exec_dDispatch_next h, dispatchFrame_master]
  · obtain ⟨bytes, row⟩ := Option.isSome_iff_exists.1 row
    rw [exec_frameRow_next row h, deliverBytes_master]

/-- What the callback may write of the slave's side (R315): SRDY, the receive buffer with its cursor and counter, the
transmitted-byte counter and the diagnostic flags. -/
structure CallbackWrites (s t : State) : Prop where
  mailbox : t.mailbox = s.mailbox
  slave : ∃ r rb rc n tc d, t.slave =
    { s.slave with srdy := r, rxBuf := rb, rxCursor := rc, rxCount := n, txCount := tc, diag := d }

theorem callbackWrites_exchange (b : Byte) (s : State) : CallbackWrites s (exchange b s) := by
  obtain ⟨mailbox, -, slave⟩ := exchange_writes s b
  exact ⟨mailbox, slave⟩

/-- What the master captures or counts of a byte is its own state, and so no write of the callback's. -/
theorem CallbackWrites.withMaster {s t : State} (h : CallbackWrites s t) (m : Master) : CallbackWrites s (t.withMaster m) :=
  ⟨h.mailbox, h.slave⟩

theorem CallbackWrites.refl (s : State) : CallbackWrites s s := ⟨rfl, _, _, _, _, _, _, rfl⟩

/-- The exchange, however it is entered, writes of the slave's side what the callback may write. -/
theorem OfExchange.callbackWrites {i : Instr} {s t : State} (own : OfExchange i) (h : exec i s = .next t) :
    CallbackWrites s t := by
  simp only [OfExchange, List.mem_cons, List.not_mem_nil, or_false] at own
  obtain (rfl | rfl) | ⟨b, rfl | row⟩ := own
  · obtain ⟨-, -, ⟨b, -, rfl⟩ | ⟨-, rfl⟩⟩ := execMClockSend_cases h
    · exact (callbackWrites_exchange b s).withMaster _
    · exact (CallbackWrites.refl s).withMaster _
  · obtain ⟨-, -, ⟨b, c, -, rfl⟩ | ⟨-, rfl⟩⟩ := execMClockRecv_cases h
    · exact (callbackWrites_exchange b s).withMaster _
    · exact (CallbackWrites.refl s).withMaster _
  · obtain rfl := Host.Outcome.next.inj (whenEnabled_next.1 h).2
    exact callbackWrites_exchange b s
  · rw [exec_byteRow_next row h]
    exact callbackWrites_exchange b s

/-- Settles O53: each context's instructions keep what is not theirs, and no field of the last clause is among those that the
callback may write. -/
theorem contextsWriteTheirOwnState : Obligations.ContextsWriteTheirOwnState := by
  intro i s t h
  refine ⟨fun own => OfMaster.frame own h, fun own => OfSlave.frame own h, fun own => ?_⟩
  obtain ⟨mailbox, _, _, _, _, _, _, slave⟩ := OfExchange.callbackWrites own h
  rw [slave, mailbox]
  exact ⟨rfl, rfl, rfl, rfl, rfl, rfl, rfl, rfl, rfl⟩

end Sys2Proof.Machine
